-- ==== Sys2Proof/Word.lean ====
section
/-! DEFINITION. The word types of the model (00_scope.md rule R8, 30_encoding.md rule R90).
All register values are unsigned; no rule of the spec sign-extends. -/

namespace Sys2Proof

/-- One Model Command Encoding word: 64 bits (R90). -/
abbrev MceWord := BitVec 64

/-- The value of one register access: 32 bits, never split into bytes (R72, R76). -/
abbrev RegVal := BitVec 32

/-- A byte of a serial transfer. -/
abbrev Byte := BitVec 8

/-- A flash word or a JTAG frame field, 16 bits (R34, R57). -/
abbrev Half := BitVec 16

end Sys2Proof
end

