-- ==== Sys2Proof/Config.lean ====
section
/-! DEFINITION. The implementation parameters of 00_scope.md rule R7, as plain data that the machine takes as an
argument (`State.cfg`), and the two free functions of the model: what the environment answers and which agent steps.
R7: "`OPEN` means the model takes it as an argument and no proof may assume a value for it": a statement about every
state is a statement about every configuration, because the configuration is a field of the state that no step writes. -/

namespace Sys2Proof

/-- The units of R2 and the host pseudo-unit, numbered as the MCE numbers them (R90). -/
inductive UnitId where
  | i2c | bpi | spi2 | spid | jtag | host
  deriving DecidableEq, Repr

/-- The unit field `[63:60]` of an MCE word (R90). -/
def UnitId.code : UnitId → Nat
  | .i2c => 0 | .bpi => 1 | .spi2 => 2 | .spid => 3 | .jtag => 4 | .host => 15

/-- The parameter `REG_ORDER` (R80, R81). -/
inductive RegOrder where
  /-- Every access is performed when it is issued (R80). -/
  | inOrder
  /-- Writes are posted and may pass later accesses to other registers (R81). -/
  | postedUntilBarrier
  deriving DecidableEq, Repr

/-- The 16 controller states of IEEE 1149.1 (R60). -/
inductive TapState where
  | testLogicReset | runTestIdle
  | selectDr | captureDr | shiftDr | exit1Dr | pauseDr | exit2Dr | updateDr
  | selectIr | captureIr | shiftIr | exit1Ir | pauseIr | exit2Ir | updateIr
  deriving DecidableEq, Repr

/-- The six tracked positions of the source's `JtagState` (R61, R345). -/
inductive JtagState where
  | invalid | idle | shiftDr | shiftIr | exit | reset
  deriving DecidableEq, Repr

/-- `I2C_BANK_CFG[b]` (R7, R67). The two address bits are given as the masks that R106 ORs into the address. Bank `b` is the entry at
position `b` of the list; no rule says what `bank_number` does, and no step reads it (DESIGN CHOICE, log entry 38). -/
structure BankCfg where
  /-- `bank_number`, 0 to 7 (R7). -/
  bankNumber : Nat
  activationBit : Nat
  writeEnableBit : Nat
  busFrequency : Nat
  deriving DecidableEq, Repr

/-- One piece of a value layout (R106): the next `width` bits of the model value stand from bit `lo` of the real value on. -/
structure LayoutPiece where
  width : Nat
  lo : Nat
  deriving DecidableEq, Repr

/-- One row of `REG_BINDING` (R7, R106): the register address of one (unit, op) pair, and how the model value's bits (the layouts of
10_state.md) stand in the real register's value, piece by piece from bit 0 of the model value on. -/
structure RegEntry where
  unit : UnitId
  op : Nat
  addr : Nat
  layout : List LayoutPiece
  deriving DecidableEq, Repr

/-- Two pieces take no bit of the real value twice. -/
def LayoutPiece.apart (p q : LayoutPiece) : Bool := decide (p.lo + p.width ≤ q.lo) || decide (q.lo + q.width ≤ p.lo)

/-- No two pieces of the list overlap. -/
def piecesApart : List LayoutPiece → Bool
  | [] => true
  | p :: rest => rest.all (fun q => p.apart q) && piecesApart rest

/-- The number of bits the pieces place. -/
def piecesWidth : List LayoutPiece → Nat
  | [] => 0
  | p :: rest => p.width + piecesWidth rest

/-- A list of pieces is a layout of a whole 32-bit register (R75): every bit of the model value has a place of its own in the real
value. -/
def layoutOk (l : List LayoutPiece) : Bool :=
  decide (piecesWidth l = 32) && l.all (fun p => decide (p.lo + p.width ≤ 32)) && piecesApart l

/-- One entry of `JTAG_TMS_TABLE` (R346): `bits` are sent most significant bit first, `num` of them. -/
structure TmsEntry where
  src : JtagState
  dst : JtagState
  bits : Nat
  num : Nat
  deriving DecidableEq, Repr

/-- Shot and queue sizes of one controller (R7, R123). JTAG counts bytes here, as R7 does. -/
structure ShotSizes where
  maxWrite : Nat
  maxRead : Nat
  writeQueue : Nat
  readQueue : Nat
  deriving DecidableEq, Repr

/-- The sizes R7 leaves open for a controller whose write shot it fixes: SPI-v2 (4 bytes) and JTAG (2 bytes). The read shot is as
large as the write shot by default, and R7 calls it OPEN, while R123 gives it as 4 bytes and 16 bits; `Config.sizes` lets it be smaller
and never larger (DEDUCED, log entry 36). -/
structure OpenSizes where
  maxRead : Nat
  writeQueue : Nat
  readQueue : Nat
  deriving DecidableEq, Repr

/-- The parameter `FLAG_BITS`: the bit of each burst flag in the `flags` word (R102). That the positions are different bits of the
32-bit word is the model's reading, asked for by `Config.wf` (DESIGN CHOICE, log entry 43). -/
structure FlagBits where
  start : Nat
  stop : Nat
  nack : Nat
  ackPolling : Nat
  csAssert : Nat
  csDeassert : Nat
  quadMode : Nat
  dataAccess : Nat
  unitBytes : Nat
  lsbFirst : Nat
  raw : Nat
  tmsFillOne : Nat
  /-- The low bit of the three-bit field `JSTATE`. -/
  jstateLo : Nat
  deriving DecidableEq, Repr

/-- The bit positions that the flags use, `JSTATE` with its three bits (R102). -/
def FlagBits.positions (f : FlagBits) : List Nat :=
  [f.start, f.stop, f.nack, f.ackPolling, f.csAssert, f.csDeassert, f.quadMode, f.dataAccess, f.unitBytes,
   f.lsbFirst, f.raw, f.tmsFillOne, f.jstateLo, f.jstateLo + 1, f.jstateLo + 2]

/-- Every parameter of R7 that some rule reads. The parameters R7 fixes (`JTAG_FRAME_BITS` 16, `BPI_READY_BIT` 7, …)
are the constants below; the four timeout bounds are draws (R403), so no field holds them. -/
structure Config where
  regAddrBits : Nat
  binding : List RegEntry
  regOrder : RegOrder
  i2cFwClock : Nat
  i2cNumBanks : Nat
  i2cBanks : List BankCfg
  bpiWordBits : Nat
  bpiAddressMask : BitVec 24
  /-- `BPI_BANK_MASK` (R7, R65, R236), which no rule gives a width: any number. -/
  bpiBankMask : Nat
  bpiBankCount : Nat
  bpiReadCommand : RegVal
  bpiReadIncCommand : RegVal
  bpiReadBurstIncCommand : RegVal
  bpiBurstCountBits : Nat
  bpiCmdFifoDepth : Nat
  bpiReadFifoDepth : Nat
  bpiCpldReliable : Bool
  bpiBankVerify : Bool
  spi2DevBits : Nat
  spi2Device : BitVec 4
  spidFselValue : BitVec 4
  jtagClk : Nat
  jtagPrescalerBits : Nat
  jtagTmsTable : List TmsEntry
  jtagExitOnLast : Bool
  bpiSizes : ShotSizes
  spi2Sizes : OpenSizes
  spidSizes : ShotSizes
  jtagSizes : OpenSizes
  /-- The units whose controller supports commands (`SUPPORTS_COMMAND[c]`). -/
  commandUnits : List UnitId
  /-- The first lock domain of `LOCK_DOMAINS` (R411, R438): the units of the host agent `State.host`. -/
  ownUnits : List UnitId
  /-- The other lock domains of `LOCK_DOMAINS`: the units of each host agent of `State.others`, in its order. -/
  otherDomains : List (List UnitId)
  flagBits : FlagBits
  deriving DecidableEq, Repr

namespace Config

/-- `BPI_READY_BIT` (R7). -/
def bpiReadyBit : Nat := 7

/-- `BPI_BANK_WRITES` (R7): write-and-wait cycles per bank select. -/
def bpiBankWrites : Nat := 2

/-- `BPI_BANK_BUSY_TIMEOUT` in milliseconds (R7): recorded; the model has no time (R403, R473). -/
def bpiBankBusyTimeoutMs : Nat := 1500

/-- `BPI_READY_TIMEOUT` in milliseconds (R7): recorded; the model has no time (R403, R473). -/
def bpiReadyTimeoutMs : Nat := 5000

/-- `SPID_FSEL_REPEAT` (R7). -/
def spidFselRepeat : Nat := 5

/-- `SPID_CTRL_REPEAT` (R7). -/
def spidCtrlRepeat : Nat := 10

/-- `JTAG_FRAME_BITS` (R7). -/
def jtagFrameBits : Nat := 16

/-- The bytes of an I2C shot, and its queues: the FIFO depth 1 (R7, R123). -/
def i2cShot : Nat := 1

/-- `MAX_BYTES_PER_WRITE[SPI2]` (R7, R123). -/
def spi2Shot : Nat := 4

/-- `MAX_BYTES_PER_WRITE[JTAG]` (R7, R123). -/
def jtagShot : Nat := 2

/-- The shot and queue sizes of a controller, the fixed ones of R7 among them; the host pseudo-unit has none. No read shot of SPI-v2
has more than 4 bytes and none of JTAG more than 16 bits (R123, R274, R349, R352), whatever `MAX_BYTES_PER_READ` says (DEDUCED, log
entry 36). -/
def sizes (c : Config) : UnitId → ShotSizes
  | .i2c => ⟨i2cShot, i2cShot, i2cShot, i2cShot⟩
  | .bpi => c.bpiSizes
  | .spi2 => ⟨spi2Shot, min c.spi2Sizes.maxRead spi2Shot, c.spi2Sizes.writeQueue, c.spi2Sizes.readQueue⟩
  | .spid => c.spidSizes
  | .jtag => ⟨jtagShot, min c.jtagSizes.maxRead jtagShot, c.jtagSizes.writeQueue, c.jtagSizes.readQueue⟩
  | .host => ⟨1, 1, 1, 1⟩

/-- `LOCK_DOMAINS` (R7): the units of each host agent. -/
def lockDomains (c : Config) : List (List UnitId) := c.ownUnits :: c.otherDomains

/-- The model positions of the burst flags (R102). -/
def modelFlagBits : FlagBits where
  start := 0
  stop := 1
  nack := 2
  ackPolling := 3
  csAssert := 4
  csDeassert := 5
  quadMode := 6
  dataAccess := 7
  unitBytes := 8
  lsbFirst := 9
  raw := 10
  tmsFillOne := 12
  jstateLo := 13

/-- The default `JTAG_TMS_TABLE`, as printed in R346 (`Invalid` is no target: R347 refuses it). -/
def modelTmsTable : List TmsEntry :=
  [⟨.idle, .idle, 0x0, 0⟩, ⟨.idle, .shiftDr, 0x4, 3⟩, ⟨.idle, .shiftIr, 0xC, 4⟩,
   ⟨.idle, .exit, 0x5, 3⟩, ⟨.idle, .reset, 0x1F, 5⟩,
   ⟨.shiftDr, .idle, 0x6, 3⟩, ⟨.shiftDr, .shiftDr, 0x0, 0⟩, ⟨.shiftDr, .shiftIr, 0x3C, 6⟩,
   ⟨.shiftDr, .exit, 0x1, 1⟩, ⟨.shiftDr, .reset, 0x1F, 5⟩] ++
  [⟨.shiftIr, .idle, 0x6, 3⟩, ⟨.shiftIr, .shiftDr, 0x1C, 5⟩, ⟨.shiftIr, .shiftIr, 0x0, 0⟩,
   ⟨.shiftIr, .exit, 0x1, 1⟩, ⟨.shiftIr, .reset, 0x1F, 5⟩,
   ⟨.exit, .idle, 0x2, 2⟩, ⟨.exit, .shiftDr, 0xC, 4⟩, ⟨.exit, .shiftIr, 0x1C, 5⟩,
   ⟨.exit, .exit, 0x0, 0⟩, ⟨.exit, .reset, 0x1F, 5⟩] ++
  [⟨.reset, .idle, 0x0, 1⟩, ⟨.reset, .shiftDr, 0x4, 4⟩, ⟨.reset, .shiftIr, 0xC, 5⟩,
   ⟨.reset, .exit, 0x5, 4⟩, ⟨.reset, .reset, 0x0, 0⟩,
   ⟨.invalid, .idle, 0x3E, 6⟩, ⟨.invalid, .shiftDr, 0x1F4, 9⟩, ⟨.invalid, .shiftIr, 0x3EC, 10⟩,
   ⟨.invalid, .exit, 0x1F5, 9⟩, ⟨.invalid, .reset, 0x1F, 5⟩]

/-- Word-aligned stand-in addresses, one per operation of R97: `64 * unit + 4 * op`. DESIGN CHOICE (log entry 3):
the spec gives no register address. The real value has the model layout. -/
def modelBindingOf (u : UnitId) (ops : Nat) : List RegEntry :=
  (List.range ops).map fun k => ⟨u, k, 64 * u.code + 4 * k, [⟨32, 0⟩]⟩

/-- The stand-in `REG_BINDING`: every non-HOST row of R97 has an address. DESIGN CHOICE (log entry 3). -/
def modelBinding : List RegEntry :=
  modelBindingOf .i2c 11 ++ modelBindingOf .bpi 4 ++ modelBindingOf .spi2 4 ++
  modelBindingOf .spid 3 ++ modelBindingOf .jtag 4

/-- The configuration of `State.reset`: R7's fixed values and defaults, and for the OPEN parameters the values of
95_test_vectors.md section 0 where it names them. DESIGN CHOICE (log entry 2): the spec leaves them open, and every statement about
all states is about all configurations. Neither R7 nor that section gives these, which are the model's own: `REG_ADDR_BITS` 32,
`REG_BINDING` (log entry 3), `I2C_BANK_CFG[1]`, the zero activation and write-enable bits of both banks, the queue sizes 1 of BPI,
SPID and JTAG. -/
def vectors : Config where
  regAddrBits := 32
  binding := modelBinding
  regOrder := .inOrder
  i2cFwClock := 125000000
  i2cNumBanks := 2
  i2cBanks := [⟨0, 0, 0, 100000⟩, ⟨1, 0, 0, 100000⟩]
  bpiWordBits := 16
  bpiAddressMask := 0xFFFFFF
  bpiBankMask := 3
  bpiBankCount := 4
  bpiReadCommand := 0x20000000
  bpiReadIncCommand := 0xA0000000
  bpiReadBurstIncCommand := 0xB0000000
  bpiBurstCountBits := 16
  bpiCmdFifoDepth := 8
  bpiReadFifoDepth := 8
  bpiCpldReliable := false
  bpiBankVerify := false
  spi2DevBits := 4
  spi2Device := 0
  spidFselValue := 1
  jtagClk := 125000000
  jtagPrescalerBits := 16
  jtagTmsTable := modelTmsTable
  jtagExitOnLast := false
  bpiSizes := ⟨8, 8, 1, 1⟩
  spi2Sizes := ⟨4, 1, 1⟩
  spidSizes := ⟨2, 2, 1, 1⟩
  jtagSizes := ⟨2, 1, 1⟩
  commandUnits := []
  ownUnits := [.i2c, .bpi, .spi2, .spid, .jtag]
  otherDomains := []
  flagBits := modelFlagBits

/-- The sizes of a controller are at least 1 (R123). -/
def sizesOk (z : ShotSizes) : Bool :=
  decide (1 ≤ z.maxWrite) && decide (1 ≤ z.maxRead) && decide (1 ≤ z.writeQueue) && decide (1 ≤ z.readQueue)

/-- `LOCK_DOMAINS` is a partition of the five units (R7, R411). -/
def domainsOk (c : Config) : Bool :=
  [UnitId.i2c, .bpi, .spi2, .spid, .jtag].all (fun u =>
    decide ((c.lockDomains.filter (fun d => d.contains u)).length = 1)) &&
  c.lockDomains.all (fun d => !d.contains .host)

/-- The flags of `FLAG_BITS` are different bits of the 32-bit flags word (DESIGN CHOICE, log entry 43). -/
def flagBitsOk (f : FlagBits) : Bool := f.positions.all (fun k => decide (k < 32)) && decide f.positions.Nodup

/-- The ranges R7, R75 and R123 give the parameters. -/
def wf (c : Config) : Bool :=
  decide (1 ≤ c.i2cNumBanks) && decide (c.i2cNumBanks ≤ 8) && decide (1 ≤ c.i2cFwClock) &&
  decide (c.i2cBanks.length = c.i2cNumBanks) && c.i2cBanks.all (fun k => decide (k.bankNumber ≤ 7)) &&
  decide (1 ≤ c.bpiWordBits) && decide (c.bpiWordBits ≤ 16) &&
  decide (c.bpiBankCount ≤ 255) &&
  decide (1 ≤ c.bpiCmdFifoDepth) && decide (1 ≤ c.bpiReadFifoDepth) &&
  decide (1 ≤ c.jtagPrescalerBits) && decide (c.jtagPrescalerBits ≤ 16) &&
  [UnitId.i2c, .bpi, .spi2, .spid, .jtag].all (fun u => sizesOk (c.sizes u)) &&
  decide (c.spidSizes.maxWrite % 2 = 0) && decide (c.spidSizes.maxRead % 2 = 0) &&
  decide (c.spi2Sizes.maxRead ≤ spi2Shot) && decide (c.jtagSizes.maxRead ≤ jtagShot) &&
   decide (c.spi2DevBits ≤ 4) && domainsOk c && flagBitsOk c.flagBits &&
  c.binding.all (fun e => decide (e.addr % 4 = 0) && decide (e.addr < 2 ^ c.regAddrBits) && layoutOk e.layout)

end Config

/-- What the model asks the environment for: one constructor per kind of draw of the spec (R9 `draw`, R69). -/
inductive Oracle where
  /-- The state of I2C bus `b` on an enable or an abandoned transfer (R168). -/
  | i2cBusy (b : Nat)
  /-- `EnvI2C(b).ack(d)`: 1 = not acknowledged (R171). -/
  | i2cAck (b : Nat) (d : Byte)
  /-- `EnvI2C(b).data(nack)` (R174). -/
  | i2cData (b : Nat) (nack : Bool)
  /-- The byte of a read with no slave addressed (R174). -/
  | i2cUndriven (b : Nat)
  /-- `EnvFlash(bank, addr)` (R88, R225). -/
  | flashWord (bank : Byte) (addr : BitVec 24)
  /-- `EnvFlash.status(bank)` (R226). -/
  | flashStatus (bank : Byte)
  /-- A flash data bus that nothing drives (R225, R226). -/
  | flashUndriven
  /-- `FIFO_ERROR` of one `BPI.RDATA` (R40, R232). -/
  | fifoError
  /-- Whether a completed CPLD bank write took (R230). -/
  | cpldTook
  /-- The bank a CPLD drives after completing a write of a register that was never written (log entry 12). -/
  | cpldUnknown
  /-- The flash word address of a BPI shot whose cursor was never written (R65; log entry 44). -/
  | cursorUnknown
  /-- The BANK field of `BPI.RBANK` without `BPI_BANK_VERIFY` (R231). -/
  | bankField
  /-- `EnvSPI(dev).byte(quad)` (R274). -/
  | spiByte (dev : BitVec 4) (quad : Bool)
  /-- A byte of a deselected or disturbed SPI-v2 read (R274). -/
  | spiUndriven
  /-- The latched control fields before the first performed control write (R45, R278). -/
  | spi2Ctrl
  /-- `EnvSPI(fsel).line(i)` (R303); `none` while `D.fsel` is unknown (log entry 28). -/
  | spidLine (fsel : Option (BitVec 4)) (i : Nat)
  /-- `EnvTAP.tdo(state, tdi)` (R341). -/
  | tdo (st : TapState) (tdi : Bool)
  /-- `JTAG.RTDO` before any frame (R342). -/
  | tdoUnknown
  /-- Whether a poll's bound has expired (R403). -/
  | pollExpired
  /-- Whether an I2C abort stops the bus (R190). -/
  | abortChoice
  /-- One half of the next operation that `execute_command` issues (R131; log entry 25): the unit it runs on, its `command_id` and
  its payload. -/
  | commandWord (u : UnitId) (id : RegVal) (payload : List Half) (high : Bool)
  /-- The status `execute_command` returns (R131; log entry 25). -/
  | commandStatus (u : UnitId) (id : RegVal) (payload : List Half)
  deriving DecidableEq, Repr

/-- FREE VALUE (log entry 1): the environment's answer number `n` to a question, when the state's answer list holds
none. It has no body, so nothing can be proved of it. -/
opaque Config.freeAnswer : Oracle → Nat → RegVal

/-- FREE VALUE (log entry 1): the scheduler's choice number `n`, when the state's turn list holds none (R84, R410). -/
opaque Config.freeTurn : Nat → Nat

end Sys2Proof
end

