-- ==== Sys2Proof/Syntax.lean ====
section
/-! DEFINITION. The instruction set: one constructor per row of spec/opcode_table.json (30_encoding.md rule R97).
Register contents and frame fields are bit vectors; a bank number, a bit index, a clock count and a status code are
numbers, bounded by `Instr.WellFormed`. -/

namespace Sys2Proof

/-- The control word of SPI-v2, model layout (R44): `[0] CS`, `[1] RW`, `[2] VALID`, `[4:3] CNT_M1`, `[5] QUAD`, `[11:8] DEV`. -/
structure Spi2Ctl where
  cs : Bool
  rw : Bool
  valid : Bool
  cntM1 : BitVec 2
  quad : Bool
  dev : BitVec 4
  deriving DecidableEq, Repr

/-- The control word of SPI-dual, model layout (R51): `[0] SCK`, `[1] CS`, `[5:2] DOUT`, `[9:6] OE`. -/
structure SpidCtl where
  sck : Bool
  cs : Bool
  dout : BitVec 4
  oe : BitVec 4
  deriving DecidableEq, Repr

/-- One block operation or host operation (R97). -/
inductive Instr where
  /-- `I2C.WPRE_LO` (R164): bank, prescaler low byte. -/
  | i2cWpreLo (b : Nat) (v : Byte)
  /-- `I2C.WPRE_HI` (R165): bank, prescaler high byte. -/
  | i2cWpreHi (b : Nat) (v : Byte)
  /-- `I2C.RPRE_LO` (R166). -/
  | i2cRpreLo (b : Nat)
  /-- `I2C.RPRE_HI` (R167). -/
  | i2cRpreHi (b : Nat)
  /-- `I2C.WCTRL` (R168): bank, EN. -/
  | i2cWctrl (b : Nat) (en : Bool)
  /-- `I2C.RCTRL` (R169). -/
  | i2cRctrl (b : Nat)
  /-- `I2C.WRITE` (R170): bank, data, STA, STO. -/
  | i2cWrite (b : Nat) (d : Byte) (sta sto : Bool)
  /-- `I2C.READ` (R172): bank, STA, STO, NACK. -/
  | i2cRead (b : Nat) (sta sto nack : Bool)
  /-- `I2C.STOP` (R175). -/
  | i2cStop (b : Nat)
  /-- `I2C.RSTAT` (R177). -/
  | i2cRstat (b : Nat)
  /-- `I2C.RDATA` (R178). -/
  | i2cRdata (b : Nat)
  /-- `BPI.CMD` (R221): the command word of R39; all 32 bits are defined. -/
  | bpiCmd (cmd : RegVal)
  /-- `BPI.RDATA` (R232). -/
  | bpiRdata
  /-- `BPI.WBANK` (R230): bank value. -/
  | bpiWbank (k : Byte)
  /-- `BPI.RBANK` (R231). -/
  | bpiRbank
  /-- `SPI2.WCTRL` (R271). -/
  | spi2Wctrl (ctl : Spi2Ctl)
  /-- `SPI2.RCTRL` (R278). -/
  | spi2Rctrl
  /-- `SPI2.WDATA` (R279). -/
  | spi2Wdata (v : RegVal)
  /-- `SPI2.RDATA` (R280). -/
  | spi2Rdata
  /-- `SPID.WCTRL` (R301). -/
  | spidWctrl (c : SpidCtl)
  /-- `SPID.WFSEL` (R302). -/
  | spidWfsel (v : BitVec 4)
  /-- `SPID.RIN` (R303). -/
  | spidRin
  /-- `JTAG.SHIFT` (R340): COUNT (1 to 16), TMS, TDI. -/
  | jtagShift (count : Nat) (tms tdi : Half)
  /-- `JTAG.RTDO` (R342). -/
  | jtagRtdo
  /-- `JTAG.WPRESC` (R343). -/
  | jtagWpresc (n : Half)
  /-- `JTAG.RSTAT` (R344). -/
  | jtagRstat
  /-- `HOST.POLL` (R402): bit index, polarity. -/
  | hostPoll (k : Nat) (p : Bool)
  /-- `HOST.CHECK` (R404): bit index, polarity, status code. -/
  | hostCheck (k : Nat) (p : Bool) (st : Nat)
  /-- `HOST.HALT` (R405): status code. -/
  | hostHalt (st : Nat)
  /-- `HOST.BARRIER` (R406). -/
  | hostBarrier
  /-- `HOST.B2B` (R407). -/
  | hostB2b
  deriving DecidableEq, Repr

end Sys2Proof
end

