-- ==== Sys2Proof/WellFormed.lean ====
section
/-! DEFINITION. Which terms of `Instr` are instructions of the encoding: the operand ranges of 30_encoding.md rules
R94 (bank), R95 (COUNT) and R96 (bit index, status field). Every other operand has the width of its field. -/

namespace Sys2Proof

/-- The bank number fits `aux[2:0]` (R94). -/
abbrev bankFits (b : Nat) : Bool := decide (b < 8)

/-- A frame moves 1 to 16 bits (R95). -/
abbrev countFits (n : Nat) : Bool := decide (1 ≤ n) && decide (n ≤ 16)

/-- The bit index fits `aux[4:0]` (R96). -/
abbrev bitFits (k : Nat) : Bool := decide (k < 32)

/-- The status code fits `value[3:0]` (R96); codes 7 to 15 encode and fault when run (R404, R405). -/
abbrev statusFits (st : Nat) : Bool := decide (st < 16)

/-- Every numeric operand is in the range its field encodes. -/
def Instr.WellFormed : Instr → Bool
  | .i2cWpreLo b _ => bankFits b
  | .i2cWpreHi b _ => bankFits b
  | .i2cRpreLo b => bankFits b
  | .i2cRpreHi b => bankFits b
  | .i2cWctrl b _ => bankFits b
  | .i2cRctrl b => bankFits b
  | .i2cWrite b _ _ _ => bankFits b
  | .i2cRead b _ _ _ => bankFits b
  | .i2cStop b => bankFits b
  | .i2cRstat b => bankFits b
  | .i2cRdata b => bankFits b
  | .bpiCmd _ => true
  | .bpiRdata => true
  | .bpiWbank _ => true
  | .bpiRbank => true
  | .spi2Wctrl _ => true
  | .spi2Rctrl => true
  | .spi2Wdata _ => true
  | .spi2Rdata => true
  | .spidWctrl _ => true
  | .spidWfsel _ => true
  | .spidRin => true
  | .jtagShift n _ _ => countFits n
  | .jtagRtdo => true
  | .jtagWpresc _ => true
  | .jtagRstat => true
  | .hostPoll k _ => bitFits k
  | .hostCheck k _ st => bitFits k && statusFits st
  | .hostHalt st => statusFits st
  | .hostBarrier => true
  | .hostB2b => true

end Sys2Proof
end

