-- ==== Sys2Proof/Decode.lean ====
section
/-! DEFINITION. The decoder and the encoder of the Model Command Encoding (30_encoding.md rules R90 to R97, R100).
The decoder is total: a word is one operation of R97 or it is illegal (R91), which is answered `none`. -/

namespace Sys2Proof

/-- The field of `len` bits from bit `lo` of a number (R8). -/
def field (n lo len : Nat) : Nat := n / 2 ^ lo % 2 ^ len

/-- Bit `k` of a number. -/
def flagBit (n k : Nat) : Bool := n / 2 ^ k % 2 == 1

/-- `unit`, bits `[63:60]` (R90). -/
def mceUnit (w : MceWord) : Nat := field w.toNat 60 4

/-- `op`, bits `[59:56]` (R90). -/
def mceOp (w : MceWord) : Nat := field w.toNat 56 4

/-- `aux`, bits `[55:48]` (R90). -/
def mceAux (w : MceWord) : Nat := field w.toNat 48 8

/-- `rsv`, bits `[47:32]`, which must be zero (R90, R91). -/
def mceRsv (w : MceWord) : Nat := field w.toNat 32 16

/-- `value`, bits `[31:0]` (R90). -/
def mceValue (w : MceWord) : Nat := field w.toNat 0 32

/-- The instruction, if its must-be-zero bits are zero (R91, R93). -/
def legal (mbz : Bool) (i : Instr) : Option Instr := if mbz then some i else none

/-- The I2C operations (R94: `aux` is the bank and `aux[7:3]` is zero). -/
def decodeI2c (op aux v : Nat) : Option Instr :=
  if aux < 8 then
    match op with
    | 0 => legal (decide (v < 256)) (.i2cWpreLo aux (BitVec.ofNat 8 v))
    | 1 => legal (decide (v < 256)) (.i2cWpreHi aux (BitVec.ofNat 8 v))
    | 2 => legal (decide (v = 0)) (.i2cRpreLo aux)
    | 3 => legal (decide (v = 0)) (.i2cRpreHi aux)
    | 4 => legal (decide (v < 2)) (.i2cWctrl aux (flagBit v 0))
    | 5 => legal (decide (v = 0)) (.i2cRctrl aux)
    | 6 => legal (decide (v < 1024)) (.i2cWrite aux (BitVec.ofNat 8 v) (flagBit v 8) (flagBit v 9))
    | 7 => legal (decide (v < 2048) && decide (v % 256 = 0))
        (.i2cRead aux (flagBit v 8) (flagBit v 9) (flagBit v 10))
    | 8 => legal (decide (v = 0)) (.i2cStop aux)
    | 9 => legal (decide (v = 0)) (.i2cRstat aux)
    | 10 => legal (decide (v = 0)) (.i2cRdata aux)
    | _ => none
  else none

/-- The BPI operations (R97: `aux` is zero). -/
def decodeBpi (op aux v : Nat) : Option Instr :=
  if aux = 0 then
    match op with
    | 0 => some (.bpiCmd (BitVec.ofNat 32 v))
    | 1 => legal (decide (v = 0)) .bpiRdata
    | 2 => legal (decide (v < 256)) (.bpiWbank (BitVec.ofNat 8 v))
    | 3 => legal (decide (v = 0)) .bpiRbank
    | _ => none
  else none

/-- The control word of a value operand (R44). -/
def spi2CtlOf (v : Nat) : Spi2Ctl where
  cs := flagBit v 0
  rw := flagBit v 1
  valid := flagBit v 2
  cntM1 := BitVec.ofNat 2 (field v 3 2)
  quad := flagBit v 5
  dev := BitVec.ofNat 4 (field v 8 4)

/-- The SPI-v2 operations (R97; R44: bits `[7:6]` and `[31:12]` are zero). -/
def decodeSpi2 (op aux v : Nat) : Option Instr :=
  if aux = 0 then
    match op with
    | 0 => legal (decide (v < 4096) && decide (field v 6 2 = 0)) (.spi2Wctrl (spi2CtlOf v))
    | 1 => legal (decide (v = 0)) .spi2Rctrl
    | 2 => some (.spi2Wdata (BitVec.ofNat 32 v))
    | 3 => legal (decide (v = 0)) .spi2Rdata
    | _ => none
  else none

/-- The control word of a value operand (R51). -/
def spidCtlOf (v : Nat) : SpidCtl where
  sck := flagBit v 0
  cs := flagBit v 1
  dout := BitVec.ofNat 4 (field v 2 4)
  oe := BitVec.ofNat 4 (field v 6 4)

/-- The SPI-dual operations (R97; R51: bits `[31:10]` are zero). -/
def decodeSpid (op aux v : Nat) : Option Instr :=
  if aux = 0 then
    match op with
    | 0 => legal (decide (v < 1024)) (.spidWctrl (spidCtlOf v))
    | 1 => legal (decide (v < 16)) (.spidWfsel (BitVec.ofNat 4 v))
    | 2 => legal (decide (v = 0)) .spidRin
    | _ => none
  else none

/-- The JTAG operations (R95: `aux[3:0]` is COUNT - 1 of a shift and `aux[7:4]` is zero). -/
def decodeJtag (op aux v : Nat) : Option Instr :=
  match op with
  | 0 => legal (decide (aux < 16))
      (.jtagShift (aux + 1) (BitVec.ofNat 16 (field v 16 16)) (BitVec.ofNat 16 (field v 0 16)))
  | 1 => legal (decide (aux = 0) && decide (v = 0)) .jtagRtdo
  | 2 => legal (decide (aux = 0) && decide (v < 65536)) (.jtagWpresc (BitVec.ofNat 16 v))
  | 3 => legal (decide (aux = 0) && decide (v = 0)) .jtagRstat
  | _ => none

/-- The host operations (R96). -/
def decodeHost (op aux v : Nat) : Option Instr :=
  match op with
  | 0 => legal (decide (aux < 64) && decide (v = 0)) (.hostPoll (aux % 32) (flagBit aux 5))
  | 1 => legal (decide (aux < 64) && decide (v < 16)) (.hostCheck (aux % 32) (flagBit aux 5) v)
  | 2 => legal (decide (aux = 0) && decide (v < 16)) (.hostHalt v)
  | 3 => legal (decide (aux = 0) && decide (v = 0)) .hostBarrier
  | 4 => legal (decide (aux = 0) && decide (v = 0)) .hostB2b
  | _ => none

/-- The decoder: `none` is an illegal word (R91, R100). -/
def decode (w : MceWord) : Option Instr :=
  if mceRsv w = 0 then
    match mceUnit w with
    | 0 => decodeI2c (mceOp w) (mceAux w) (mceValue w)
    | 1 => decodeBpi (mceOp w) (mceAux w) (mceValue w)
    | 2 => decodeSpi2 (mceOp w) (mceAux w) (mceValue w)
    | 3 => decodeSpid (mceOp w) (mceAux w) (mceValue w)
    | 4 => decodeJtag (mceOp w) (mceAux w) (mceValue w)
    | 15 => decodeHost (mceOp w) (mceAux w) (mceValue w)
    | _ => none
  else none

/-- The unit of an operation (R97). -/
def Instr.unit : Instr → UnitId
  | .i2cWpreLo _ _ | .i2cWpreHi _ _ | .i2cRpreLo _ | .i2cRpreHi _ | .i2cWctrl _ _ | .i2cRctrl _
  | .i2cWrite _ _ _ _ | .i2cRead _ _ _ _ | .i2cStop _ | .i2cRstat _ | .i2cRdata _ => .i2c
  | .bpiCmd _ | .bpiRdata | .bpiWbank _ | .bpiRbank => .bpi
  | .spi2Wctrl _ | .spi2Rctrl | .spi2Wdata _ | .spi2Rdata => .spi2
  | .spidWctrl _ | .spidWfsel _ | .spidRin => .spid
  | .jtagShift _ _ _ | .jtagRtdo | .jtagWpresc _ | .jtagRstat => .jtag
  | .hostPoll _ _ | .hostCheck _ _ _ | .hostHalt _ | .hostBarrier | .hostB2b => .host

/-- The op number of an operation within its unit (R97). -/
def Instr.op : Instr → Nat
  | .i2cWpreLo _ _ => 0
  | .i2cWpreHi _ _ => 1
  | .i2cRpreLo _ => 2
  | .i2cRpreHi _ => 3
  | .i2cWctrl _ _ => 4
  | .i2cRctrl _ => 5
  | .i2cWrite _ _ _ _ => 6
  | .i2cRead _ _ _ _ => 7
  | .i2cStop _ => 8
  | .i2cRstat _ => 9
  | .i2cRdata _ => 10
  | .bpiCmd _ => 0
  | .bpiRdata => 1
  | .bpiWbank _ => 2
  | .bpiRbank => 3
  | .spi2Wctrl _ => 0
  | .spi2Rctrl => 1
  | .spi2Wdata _ => 2
  | .spi2Rdata => 3
  | .spidWctrl _ => 0
  | .spidWfsel _ => 1
  | .spidRin => 2
  | .jtagShift _ _ _ => 0
  | .jtagRtdo => 1
  | .jtagWpresc _ => 2
  | .jtagRstat => 3
  | .hostPoll _ _ => 0
  | .hostCheck _ _ _ => 1
  | .hostHalt _ => 2
  | .hostBarrier => 3
  | .hostB2b => 4

/-- The bank field of an I2C operation (R94). -/
def Instr.bank? : Instr → Option Nat
  | .i2cWpreLo b _ | .i2cWpreHi b _ | .i2cRpreLo b | .i2cRpreHi b | .i2cWctrl b _ | .i2cRctrl b
  | .i2cWrite b _ _ _ | .i2cRead b _ _ _ | .i2cStop b | .i2cRstat b | .i2cRdata b => some b
  | _ => none

/-- A read operation, format RD (R92, R97). -/
def Instr.isRead : Instr → Bool
  | .i2cRpreLo _ | .i2cRpreHi _ | .i2cRctrl _ | .i2cRstat _ | .i2cRdata _ | .bpiRdata | .bpiRbank
  | .spi2Rctrl | .spi2Rdata | .spidRin | .jtagRtdo | .jtagRstat => true
  | _ => false

/-- A host operation, format HO (R92). -/
def Instr.isHost (i : Instr) : Bool := decide (i.unit = .host)

/-- A register write, one `MemWrite` (R70). -/
def Instr.isWrite (i : Instr) : Bool := !i.isRead && !i.isHost

/-- The number a control word of SPI-v2 is written as (R44). -/
def spi2CtlValue (c : Spi2Ctl) : Nat :=
  c.cs.toNat + 2 * c.rw.toNat + 4 * c.valid.toNat + 8 * c.cntM1.toNat + 32 * c.quad.toNat + 256 * c.dev.toNat

/-- The number a control word of SPI-dual is written as (R51). -/
def spidCtlValue (c : SpidCtl) : Nat :=
  c.sck.toNat + 2 * c.cs.toNat + 4 * c.dout.toNat + 64 * c.oe.toNat

/-- The `aux` field of an operation (R94 to R96). -/
def Instr.aux : Instr → Nat
  | .jtagShift n _ _ => n - 1
  | .hostPoll k p => k + 32 * p.toNat
  | .hostCheck k p _ => k + 32 * p.toNat
  | i => i.bank?.getD 0

/-- The `value` field of an operation (R97). -/
def Instr.value : Instr → Nat
  | .i2cWpreLo _ v => v.toNat
  | .i2cWpreHi _ v => v.toNat
  | .i2cWctrl _ en => en.toNat
  | .i2cWrite _ d sta sto => d.toNat + 256 * sta.toNat + 512 * sto.toNat
  | .i2cRead _ sta sto nack => 256 * sta.toNat + 512 * sto.toNat + 1024 * nack.toNat
  | .bpiCmd cmd => cmd.toNat
  | .bpiWbank k => k.toNat
  | .spi2Wctrl c => spi2CtlValue c
  | .spi2Wdata v => v.toNat
  | .spidWctrl c => spidCtlValue c
  | .spidWfsel v => v.toNat
  | .jtagShift _ tms tdi => tdi.toNat + 65536 * tms.toNat
  | .jtagWpresc n => n.toNat
  | .hostCheck _ _ st => st
  | .hostHalt st => st
  | _ => 0

/-- An MCE word from its fields, `rsv` zero (R90). -/
def mce (unit op aux value : Nat) : MceWord :=
  BitVec.ofNat 64 (unit * 2 ^ 60 + op * 2 ^ 56 + aux * 2 ^ 48 + value)

/-- The encoder: the word of a well-formed instruction (R90, R97). -/
def encode (i : Instr) : MceWord := mce i.unit.code i.op i.aux i.value

/-- The instruction the decoder reads from a word of `nbits` bits, every bit above them zero. -/
def decodeTableWord (nbits w : Nat) : Option Instr := decode (BitVec.ofNat 64 (w % 2 ^ nbits))

end Sys2Proof
end

