-- ==== Sys2Proof/Machine/State.lean ====
section
/-! DEFINITION. The state of the machine: the five units, the bank CPLD, the tracked target TAP, the host agent with its
host program and its driver calls, and the model's own environment answers and turns. Plain data throughout.

A field the spec calls `unknown` at reset is a value and a mark `…Known` that says whether it has been written: the spec's own
`F_UNWRITTEN` (60_exceptions.md rule R436) reads the mark. -/

namespace Sys2Proof.Machine

/-! ## Statuses, faults, refusals -/

/-- The seven statuses (R420). -/
inductive Status where
  | ok | invalidArgument | invalidOperation | invalidState | deviceIO | timeout | noAck
  deriving DecidableEq, Repr

/-- The faults of R437, every one and no other. A fault is the spec's own answer to what the source gives no meaning; it ends
the run, marked with its name and the rule that raised it, and changes no state (R435). A fault that several rules raise carries
the number of the one that did. Each is safe: the model stops where hardware might go on. -/
inductive Fault where
  /-- `F_ILLEGAL`: an illegal MCE word (R91), or `HOST.CHECK`/`HOST.HALT` with a status code 7 to 15 (R404, R405). Safe. -/
  | illegal (rule : Nat)
  /-- `F_BAD_ADDR`: `REG_BINDING` gives the access no register address (R71). Safe. -/
  | badAddr
  /-- `F_UNWRITTEN`: an operation needs a host-written field that was never written (R436): an I2C register read (R166, R167, R169),
  an I2C transfer (R170, R172, R175), an engine access (R225 to R229), an SPI-v2 write (R271), a test of a read result (R402, R404).
  Safe. -/
  | unwritten (rule : Nat)
  /-- `F_I2C_BANK`: an I2C operation with a bank number not below `I2C_NUM_BANKS` (R32, R160). Safe. -/
  | i2cBank
  /-- `F_I2C_PRESC_EN`: a prescaler write with the core enabled (R164, R165). Safe. -/
  | i2cPrescEn (rule : Nat)
  /-- `F_I2C_DISABLED`: a transfer with the core disabled (R170, R172, R175). Safe. -/
  | i2cDisabled (rule : Nat)
  /-- `F_I2C_TIP`: a transfer while one is in progress (R170, R172, R175). Safe. -/
  | i2cTip (rule : Nat)
  /-- `F_I2C_RX_EMPTY`: `I2C.RDATA` before any read completed (R178). Safe. -/
  | i2cRxEmpty
  /-- `F_BPI_CMD`: the engine reaches a command word R222, R224 or R229 does not admit. Safe. -/
  | bpiCmd (rule : Nat)
  /-- `F_BPI_UNPRIMED`: a burst without its priming reads (R228). Safe. -/
  | bpiUnprimed
  /-- `F_SPI2_RX_EMPTY`: `SPI2.RDATA` on an empty read FIFO (R280). Safe. -/
  | spi2RxEmpty
  /-- `F_JTAG_BUSY`: `JTAG.SHIFT` or `JTAG.WPRESC` while a frame is in progress (R340, R343). Safe. -/
  | jtagBusy (rule : Nat)
  /-- `F_HOST_POLL`: `HOST.POLL` that does not follow a read operation (R402). Safe. -/
  | hostPoll
  /-- `F_BURST_REENTRANT`: a burst or cleanup on a controller with a burst open (R121, R133). Safe. -/
  | burstReentrant (rule : Nat)
  /-- `F_BURST_NOT_OPEN`: burst state read with no burst open (R66, R132). Safe. -/
  | burstNotOpen
  /-- `F_LOCK_DOMAIN`: an operation on a unit outside the host agent's lock domain (R438). Safe. -/
  | lockDomain
  deriving DecidableEq, Repr

/-- The rule that raised a fault (R435). -/
def Fault.rule : Fault → Nat
  | .illegal r => r
  | .badAddr => 71
  | .unwritten r => r
  | .i2cBank => 160
  | .i2cPrescEn r => r
  | .i2cDisabled r => r
  | .i2cTip r => r
  | .i2cRxEmpty => 178
  | .bpiCmd r => r
  | .bpiUnprimed => 228
  | .spi2RxEmpty => 280
  | .jtagBusy r => r
  | .hostPoll => 402
  | .burstReentrant r => r
  | .burstNotOpen => 132
  | .lockDomain => 438

/-- What the model has no meaning for. -/
inductive Refusal where
  /-- An instruction without a meaning; no arm of `exec` raises it. Safe. -/
  | notModelled (mnemonic : String)
  /-- A Write burst, or a CommandExec burst of a controller with commands, whose payload is not the list of units its header
  counts: R121 takes a buffer of exactly that many (log entry 14). Raised by a driver call only, never by an instruction. Safe. -/
  | callPayload
  deriving DecidableEq, Repr

/-! ## The event history -/

/-- A log entry of R430. -/
inductive LogEntry where
  | noAck | fifoFull | fifoError
  deriving DecidableEq, Repr

/-- One event of the history (R89). -/
inductive Event where
  /-- A register access the block performed, with the value read or written (R401). -/
  | access (i : Instr) (v : RegVal)
  /-- An environment answer (R89, R408). -/
  | answer (q : Oracle) (v : RegVal)
  /-- `HOST.BARRIER` (R406). -/
  | barrier
  /-- `HOST.B2B` (R407). -/
  | b2b
  /-- Completion of an I2C write (R171): bank, START, byte, acknowledge bit, STOP. -/
  | i2cWrite (b : Nat) (sta : Bool) (d : Byte) (ack sto : Bool)
  /-- Completion of an I2C read (R174): bank, START, byte, NACK, STOP. -/
  | i2cRead (b : Nat) (sta : Bool) (d : Byte) (nack sto : Bool)
  /-- Completion of an I2C stop (R176). -/
  | i2cStop (b : Nat)
  /-- A word written to a selected flash (R229). -/
  | flashWrite (bank : Byte) (addr : BitVec 24) (d : Half)
  /-- The BPI engine finished a command (R89, R220). -/
  | bpiDone (cmd : RegVal)
  /-- The CPLD completed a bank write and now drives this bank (R89, R230). -/
  | cpldDone (bank : Byte)
  /-- One byte of an SPI-v2 write access (R273). -/
  | spiWrite (dev : BitVec 4) (quad cs : Bool) (d : Byte) (disturbed : Bool)
  /-- An SPI-v2 read access (R274): its entry and its byte count. -/
  | spiRead (dev : BitVec 4) (quad cs : Bool) (e : RegVal) (n : Nat)
  /-- The SPI-v2 unit performed a control write (R89, R271). -/
  | spi2Done (ctl : Spi2Ctl)
  /-- A control write of SPI-dual (R301). -/
  | spidCtrl (c : SpidCtl)
  /-- A flash-select write of SPI-dual (R302). -/
  | spidFsel (v : BitVec 4)
  /-- A rising clock edge with the flash selected (R301, R304); the flash select is `none` while `D.fsel` is unknown (log entry
  28). -/
  | spidRise (fsel : Option (BitVec 4)) (dout oe : BitVec 4)
  /-- A falling clock edge with the flash selected (R301, R304); as above. -/
  | spidFall (fsel : Option (BitVec 4))
  /-- One test clock (R341): the TAP state it was taken in, TMS, TDI and TDO. -/
  | jtagClock (st : TapState) (tms tdi tdo : Bool)
  /-- A log entry; no effect on any state or status (R430). -/
  | log (e : LogEntry)
  deriving DecidableEq, Repr

/-! ## The units -/

/-- The I2C operation in progress, `I.pending` (R29). -/
inductive I2cOp where
  | write (b : Nat) (d : Byte) (sta sto : Bool)
  | read (b : Nat) (sta sto nack : Bool)
  | stop (b : Nat)
  deriving DecidableEq, Repr

/-- The I2C unit (R24 to R31). -/
structure I2cUnit where
  /-- `I.prescaler[7:0]` (R24). -/
  preLo : Byte
  preLoKnown : Bool
  /-- `I.prescaler[15:8]` (R24). -/
  preHi : Byte
  preHiKnown : Bool
  /-- `I.en` (R26). -/
  en : Bool
  enKnown : Bool
  /-- `I.tx` (R27). -/
  tx : Byte
  txKnown : Bool
  /-- `I.rx : u8 or empty` (R28). -/
  rx : Option Byte
  /-- `I.tip` (R29). -/
  tip : Bool
  /-- `I.pending`, empty when no transfer is in progress (R29). -/
  pending : Option I2cOp
  /-- `I.busy[b]` of the up to eight banks (R30). -/
  busy : Vector Bool 8
  /-- `I.rxack` (R31): `true` is 1, not acknowledged. -/
  rxack : Bool
  deriving DecidableEq, Repr

/-- The BPI engine (R33 to R38). -/
structure BpiUnit where
  /-- `B.cmdq`, oldest first (R33). -/
  cmdq : List RegVal
  /-- `B.rdq`, oldest first (R34). -/
  rdq : List Half
  /-- `B.addr` (R35); `BPI_ADDRESS_MASK < 2^24` (R224). -/
  addr : BitVec 24
  addrKnown : Bool
  /-- `B.cs` (R36). -/
  cs : Bool
  csKnown : Bool
  /-- `B.waiting` (R37). -/
  waiting : Bool
  /-- `B.burst_left`, 0 to 2^16 (R37). -/
  burstLeft : Nat
  /-- `B.primed`, 0 to 3 (R38). -/
  primed : Nat
  deriving DecidableEq, Repr

/-- The bank CPLD (R41 to R43). -/
structure Cpld where
  /-- `C.bank_reg` (R41). -/
  bankReg : Byte
  bankRegKnown : Bool
  /-- `C.bank_eff` (R42). -/
  bankEff : Byte
  /-- `C.busy` (R43). -/
  busy : Bool
  deriving DecidableEq, Repr

/-- An entry of `S.accq`: a control word and the data register captured at issue (R271). -/
structure Spi2Access where
  ctl : Spi2Ctl
  txd : RegVal
  txdKnown : Bool
  deriving DecidableEq, Repr

/-- The SPI-v2 unit (R45 to R50). -/
structure Spi2Unit where
  /-- `S.ctrl`, the latched fields of the last performed control write (R45); its `valid` is not latched and reads 0. -/
  ctrl : Spi2Ctl
  ctrlKnown : Bool
  /-- `S.accq` (R46). -/
  accq : List Spi2Access
  /-- `S.txd` (R47). -/
  txd : RegVal
  txdKnown : Bool
  /-- `S.rdq` (R48). -/
  rdq : List RegVal
  /-- `S.dummy_done`, host-side (R49). -/
  dummyDone : Bool
  /-- `S.fresh` (R49). -/
  fresh : Bool
  deriving DecidableEq, Repr

/-- The SPI-dual unit (R52, R53). -/
structure SpidUnit where
  /-- `D.ctrl` (R52). -/
  ctrl : SpidCtl
  ctrlKnown : Bool
  /-- `D.fsel` (R53). -/
  fsel : BitVec 4
  fselKnown : Bool
  deriving DecidableEq, Repr

/-- `D.fsel` where it has been written (R53): what an edge and an undriven line name (R301, R303; log entry 28). -/
def SpidUnit.select (u : SpidUnit) : Option (BitVec 4) := if u.fselKnown then some u.fsel else none

/-- `J.pending`: a frame in progress (R59). -/
structure JtagFrame where
  count : Nat
  tms : Half
  tdi : Half
  deriving DecidableEq, Repr

/-- The JTAG unit (R56, R58, R59). -/
structure JtagUnit where
  /-- `J.presc`, `JTAG_PRESCALER_BITS` wide (R56). -/
  presc : Half
  prescKnown : Bool
  /-- `J.tdo` (R58). -/
  tdo : Half
  tdoKnown : Bool
  /-- `J.busy` (R59). -/
  busy : Bool
  /-- `J.pending`, which has a meaning only while `busy` (R59). -/
  pending : JtagFrame
  deriving DecidableEq, Repr

/-! ## The register path -/

/-- A posted write that the block has not performed yet (R81): its number, and the number of the write that a `HOST.B2B` orders
before it (R82). -/
structure PostedWrite where
  id : Nat
  instr : Instr
  after : Option Nat
  deriving DecidableEq, Repr

/-- Accesses in flight under `REG_ORDER = PostedUntilBarrier` (R81, R82): the model's own field. -/
structure RegPath where
  /-- Posted writes in issue order. -/
  posted : List PostedWrite
  nextId : Nat
  /-- The posted write issued by the word immediately before, if it was one (R407). -/
  prevWrite : Option Nat
  /-- The write the next register access must follow (R407). -/
  fence : Option Nat
  deriving DecidableEq, Repr

/-! ## The host agent -/

/-- Whether the host runs a host program or a list of driver calls (48_host.md). -/
inductive HostMode where
  | program | driver
  deriving DecidableEq, Repr

/-- `H.burst[c]`, the source's `TransientBurstState` (R66). -/
structure BurstState where
  isOpen : Bool
  flags : BitVec 32
  isFirst : Bool
  isLast : Bool
  deriving DecidableEq, Repr

/-- `H.jtag.scratch` (R62, R357): the TMS stream and the read buffer of the last raw transfer, as bits in time order. -/
structure JtagScratch where
  tms : List Bool
  rd : List Bool
  deriving DecidableEq, Repr

/-- The addressee of a burst or a cleanup (R120). -/
inductive Controller where
  | i2cBank (b : Nat) | i2cCore | bpi | spi2 | spid | jtag
  deriving DecidableEq, Repr

/-- The burst kinds of R101. -/
inductive BurstKind where
  | read | write | stateChange | commandExec
  deriving DecidableEq, Repr

/-- A burst header `{type, flags, length}` (R101). -/
structure BurstHeader where
  type : BitVec 32
  flags : BitVec 32
  length : BitVec 32
  deriving DecidableEq, Repr

/-- A driver call (R120). -/
inductive Call where
  /-- `burst(c, hdr, buf [, addr])`; a BPI burst counts flash words, the others bytes, in one list of 16-bit units (R74). -/
  | burst (c : Controller) (hdr : BurstHeader) (buf : List Half) (addr : Option Nat)
  /-- `cleanup(c)` (R133). -/
  | cleanup (c : Controller)
  /-- `jtag_set_frequency(f)` (R356). -/
  | jtagSetFrequency (f : Nat)
  deriving DecidableEq, Repr

/-- What a driver call gave its caller: the status, and the buffer (R127, R408). -/
structure CallResult where
  status : Status
  buf : List Half
  deriving DecidableEq, Repr

/-- A point of a host procedure: the pseudocode of R121 to R358 between two block operations. The rule of each is named at its
meaning in `Machine/Driver*.lean`. -/
inductive Proc where
  | burstEntry (c : Controller) (hdr : BurstHeader) (buf : List Half) (addr : Option Nat)
  | burstOpen
  | setCursor
  | writeLoop (k : Nat)
  | readPrefill (kr : Nat)
  | readLoop (kc kr : Nat)
  | readNext (kc kr : Nat)
  | stateChange
  | commandExec
  | command (id : RegVal) (payload : List Half)
  | preFlags
  | postFlags
  | aborted
  | cleanup (c : Controller)
  | writeShot (k : Nat)
  | requestRead (k : Nat)
  | readShot (k : Nat)
  | waitWriteQueue
  | pollTest (i : Instr) (bit : Nat) (pol bounded : Bool)
  | i2cActivate (b : Nat)
  | i2cSelect (b : Nat)
  | i2cProgram (b : Nat)
  | i2cReadHi (b : Nat) (p : Half)
  | i2cVerify (lo : Byte) (p : Half)
  | i2cEnable (b : Nat)
  | i2cEnableTest (b : Nat)
  | i2cForget
  | i2cCheckAck
  | i2cStore (pos : Nat)
  | i2cAbortTest (b : Nat)
  | i2cCleanupTip (b : Nat)
  | i2cCleanupBusy (b : Nat)
  | bpiSelect (k : Byte)
  | bpiVerify (k : Byte)
  | bpiSelected (k : Byte)
  | bpiForget
  | bpiReadCommands (a : BitVec 24) (n : Nat)
  | bpiAdvance (n : Nat)
  | bpiReadyTest (seen : Bool)
  | bpiTake
  | bpiStore (pos : Nat)
  | spi2Store (pos n : Nat)
  | spi2DummyRead
  | spi2DummyDone
  | spidSetCs (on : Bool)
  | spidCsDone (on : Bool)
  | spidSampleBit
  | spidStoreByte (pos : Nat)
  | spidSamplePair
  | spidStorePair (pos : Nat)
  | jtagSetState (s : JtagState)
  | jtagTracked (s : JtagState)
  | jtagForget
  | jtagCapture (m : Nat)
  | jtagStore (k m : Nat)
  | jtagSetFrequency (f : Nat)
  deriving DecidableEq, Repr

/-- One entry of a driver call's control stack. While the call's status is not `Ok`, `op` and `run` entries are passed over;
the others are always taken. -/
inductive Micro where
  /-- `do OP`: one block operation, one host step (R409). -/
  | op (i : Instr)
  /-- Go on with a procedure. -/
  | run (p : Proc)
  /-- Run `p` only after a failure; the failing status stays (R424). -/
  | onFail (p : Proc)
  /-- Run `p` in any case; the first failure is the status (R130). -/
  | always (p : Proc)
  /-- End of `onFail`: the failure that caused it is the status again. -/
  | restore (st : Status)
  /-- End of `always`: an earlier failure wins. -/
  | combine (st : Status)
  /-- `H.burst[c].open <- false` at the end of a burst (R121). -/
  | closeBurst
  /-- The call ends and returns its status (R409). -/
  | ret
  deriving DecidableEq, Repr

/-- Where the teardown of a driver-mode run stands (R465; log entry 33). -/
inductive Teardown where
  /-- The run ends after its last call without teardown. -/
  | off
  /-- Teardown follows the last call. -/
  | asked
  /-- The cleanups of teardown run. -/
  | running
  /-- Torn down: no driver call runs any more. -/
  | done
  deriving DecidableEq, Repr

/-- The driver-mode control of the host agent (R409): the calls to come, the control of the one running, and what the finished
ones returned. -/
structure Driver where
  calls : List Call
  stack : List Micro
  /-- The status of the call so far. -/
  status : Status
  ctl : Controller
  hdr : BurstHeader
  addr : Option Nat
  /-- The payload of a write, or the destination of a read, in units. -/
  buf : List Half
  /-- The bits or bytes a bit-banged or shifted read has collected. -/
  acc0 : Byte
  acc1 : Byte
  bits : List Bool
  /-- The words a BPI read shot has read, not yet in the destination (R127). -/
  words : List Half
  results : List CallResult
  teardown : Teardown
  deriving DecidableEq, Repr

/-- The host agent of a lock domain (R6, R21, R22, R55, R61, R62, R64 to R66, R411). -/
structure HostAgent where
  mode : HostMode
  /-- The host program `P` (R400). -/
  program : List MceWord
  /-- `H.pc` (R21). -/
  pc : Nat
  /-- `H.last` (R22). -/
  last : RegVal
  lastKnown : Bool
  /-- `H.status`, absent while the run is live (R22). -/
  status : Option Status
  /-- `H.i2c.active_bus` (R64). -/
  activeBus : Option Nat
  /-- `H.bpi.selected_bank`, `0xFF` unknown (R65). -/
  selectedBank : Byte
  /-- `H.bpi.cursor` (R65), a flash word address of no stated width: a number that never wraps (DESIGN CHOICE, log entry 42). -/
  cursor : Nat
  cursorKnown : Bool
  /-- `H.spid.chip_selected` (R55). -/
  chipSelected : Bool
  /-- `H.jtag.state` (R61). -/
  jtagState : JtagState
  /-- `H.jtag.scratch` (R62). -/
  scratch : JtagScratch
  /-- `H.burst[I2C]`, shared by the bank views and the core (R120). -/
  burstI2c : BurstState
  burstBpi : BurstState
  burstSpi2 : BurstState
  burstSpid : BurstState
  burstJtag : BurstState
  drv : Driver
  deriving DecidableEq, Repr

/-! ## The whole machine -/

/-- An agent that can step (R6, R410). `host` is the host agent of the first lock domain and `bus k` performs its posted write at
position `k` (R81); `foreign d` and `foreignBus d k` are those of the other lock domain `d` (R411, R441). -/
inductive Agent where
  | host | i2c | bpi | cpld | spi2 | jtag
  | bus (k : Nat)
  | foreign (d : Nat)
  | foreignBus (d k : Nat)
  deriving DecidableEq, Repr

/-- The host agent of another lock domain, with its accesses in flight (R411). -/
structure OtherHost where
  host : HostAgent
  path : RegPath
  deriving DecidableEq, Repr

/-- The environment's answers to come, as data, and how many have been given: the model's own field (log entry 1). -/
structure Env where
  answers : List RegVal
  drawn : Nat
  deriving DecidableEq, Repr

/-- The turns to come, as data, and how many the scheduler chose by itself: the model's own field (log entry 1). -/
structure Sched where
  turns : List Agent
  chosen : Nat
  deriving DecidableEq, Repr

/-- The machine. -/
structure State where
  /-- The parameters of R7; no step writes them (R67). -/
  cfg : Config
  i2c : I2cUnit
  bpi : BpiUnit
  cpld : Cpld
  spi2 : Spi2Unit
  spid : SpidUnit
  jtag : JtagUnit
  /-- `T.state`, the target's TAP controller (R60). -/
  tap : TapState
  path : RegPath
  host : HostAgent
  /-- The host agents of the other lock domains, in the order of `Config.otherDomains` (R411). -/
  others : List OtherHost
  env : Env
  sched : Sched
  /-- The event history, oldest first (R89). -/
  history : List Event
  deriving DecidableEq, Repr

/-- The fields whose reset value R460 calls a `draw`: the environment's choice at the start of a run. -/
structure ResetDraws where
  busy : Vector Bool 8
  rxack : Bool
  bankEff : Byte
  cpldBusy : Bool
  tap : TapState
  deriving DecidableEq, Repr

/-- The draws `State.reset` names: buses free, acknowledge bit 0, bank 0, CPLD idle, TAP in Test-Logic-Reset.
DESIGN CHOICE (log entry 4): the spec gives none. -/
def ResetDraws.named : ResetDraws where
  busy := Vector.replicate 8 false
  rxack := false
  bankEff := 0
  cpldBusy := false
  tap := .testLogicReset

/-- No burst open; the other fields have no meaning then (R66). -/
def BurstState.closed : BurstState := ⟨false, 0, false, false⟩

/-- The I2C unit after reset (R460); no step's result depends on a value beside a cleared `…Known` mark. -/
def I2cUnit.reset (d : ResetDraws) : I2cUnit where
  preLo := 0
  preLoKnown := false
  preHi := 0
  preHiKnown := false
  en := false
  enKnown := false
  tx := 0
  txKnown := false
  rx := none
  tip := false
  pending := none
  busy := d.busy
  rxack := d.rxack

/-- The BPI engine after reset (R460). -/
def BpiUnit.reset : BpiUnit where
  cmdq := []
  rdq := []
  addr := 0
  addrKnown := false
  cs := false
  csKnown := false
  waiting := false
  burstLeft := 0
  primed := 0

/-- The CPLD after reset (R460). -/
def Cpld.reset (d : ResetDraws) : Cpld where
  bankReg := 0
  bankRegKnown := false
  bankEff := d.bankEff
  busy := d.cpldBusy

/-- The SPI-v2 unit after reset (R460). -/
def Spi2Unit.reset : Spi2Unit where
  ctrl := ⟨false, false, false, 0, false, 0⟩
  ctrlKnown := false
  accq := []
  txd := 0
  txdKnown := false
  rdq := []
  dummyDone := false
  fresh := true

/-- The SPI-dual unit after reset (R460). -/
def SpidUnit.reset : SpidUnit where
  ctrl := ⟨false, false, 0, 0⟩
  ctrlKnown := false
  fsel := 0
  fselKnown := false

/-- The JTAG unit after reset (R460). `J.pending` has no reset value: it has a meaning only while `J.busy` is 1 (R59). The model's one
clock with TMS 0 and TDI 0 is a DESIGN CHOICE (log entry 4); no step reads it. -/
def JtagUnit.reset : JtagUnit where
  presc := 0
  prescKnown := false
  tdo := 0
  tdoKnown := false
  busy := false
  pending := ⟨1, 0, 0⟩

/-- No driver call running. -/
def Driver.reset : Driver where
  calls := []
  stack := []
  status := .ok
  ctl := .i2cCore
  hdr := ⟨0, 0, 0⟩
  addr := none
  buf := []
  acc0 := 0
  acc1 := 0
  bits := []
  words := []
  results := []
  teardown := .off

/-- The host agent after reset (R460): no program is loaded (log entry 5). -/
def HostAgent.reset : HostAgent where
  mode := .program
  program := []
  pc := 0
  last := 0
  lastKnown := false
  status := none
  activeBus := none
  selectedBank := 0xFF
  cursor := 0
  cursorKnown := false
  chipSelected := false
  jtagState := .invalid
  scratch := ⟨[], []⟩
  burstI2c := .closed
  burstBpi := .closed
  burstSpi2 := .closed
  burstSpid := .closed
  burstJtag := .closed
  drv := .reset

/-- No access in flight. -/
def RegPath.reset : RegPath := ⟨[], 0, none, none⟩

/-- The reset state (R460) of a block with the parameters `cfg` whose environment draws `d` at the start of the run. The history
starts empty: the draws of the reset state are no events of it, DESIGN CHOICE (log entry 29). -/
def State.resetWith (cfg : Config) (d : ResetDraws) : State where
  cfg := cfg
  i2c := .reset d
  bpi := .reset
  cpld := .reset d
  spi2 := .reset
  spid := .reset
  jtag := .reset
  tap := d.tap
  path := .reset
  host := .reset
  others := List.replicate cfg.otherDomains.length ⟨.reset, .reset⟩
  env := ⟨[], 0⟩
  sched := ⟨[], 0⟩
  history := []

/-- The machine right after reset (R460), with the parameters of log entry 2 and the draws of log entry 4. -/
def State.reset : State := State.resetWith Config.vectors ResetDraws.named

end Sys2Proof.Machine
end

