-- ==== Sys2Proof/Machine/Ops.lean ====
section
/-! DEFINITION. The shared operations: environment draws and the event history (20_memory.md R89), register accesses and
their ordering (20_memory.md R70 to R84), and what a host step does around an operation (48_host.md R400, R401).

The block raises no exception and no interrupt (60_exceptions.md R429): a fault ends the run, and the failure of a driver
call takes the abort path of R424, which is `Micro.onFail` in Machine/Driver.lean. -/

namespace Sys2Proof.Machine

/-! ## Outcomes -/

/-- A result as a step outcome: a fault ends the run (R435). -/
def toOutcome : Except Fault State → Host.Outcome State Fault Refusal
  | .ok s => .next s
  | .error e => .fault e

/-- Apply a state change to the next state of an outcome. -/
def mapNext (g : State → State) : Host.Outcome State Fault Refusal → Host.Outcome State Fault Refusal
  | .next s => .next (g s)
  | .fault e => .fault e
  | .refused r => .refused r

/-- Apply a state change to a successful result. -/
def mapOk (g : State → State) : Except Fault State → Except Fault State
  | .ok s => .ok (g s)
  | .error e => .error e

/-! ## History and draws -/

/-- Append an event to the history (R89). -/
def State.record (s : State) (e : Event) : State := { s with history := s.history ++ [e] }

/-- The answer the environment gives next: the head of the answer list, or the free value when the list is empty
(R9 `draw`, R69; log entry 1). -/
def State.nextAnswer (s : State) (q : Oracle) : RegVal :=
  match s.env.answers with
  | v :: _ => v
  | [] => Config.freeAnswer q s.env.drawn

/-- The state after the environment has answered `q`: the answer is used up and recorded (R89, R408). -/
def State.answered (s : State) (q : Oracle) : State :=
  { s with
    env := ⟨s.env.answers.tail, s.env.drawn + 1⟩
    history := s.history ++ [.answer q (s.nextAnswer q)] }

/-- `draw` of a 32-bit value. -/
def draw (q : Oracle) (s : State) : RegVal × State := (s.nextAnswer q, s.answered q)

/-- `draw bit`: bit 0 of the answer. -/
def drawBit (q : Oracle) (s : State) : Bool × State := ((s.nextAnswer q).getLsbD 0, s.answered q)

/-- `draw u8`: the low byte of the answer. -/
def drawByte (q : Oracle) (s : State) : Byte × State := ((s.nextAnswer q).setWidth 8, s.answered q)

/-- `draw u16`: the low half of the answer. -/
def drawHalf (q : Oracle) (s : State) : Half × State := ((s.nextAnswer q).setWidth 16, s.answered q)

/-! ## Running and ending a host program -/

/-- `end run with H.status <- st` (R402, R404, R405). -/
def State.endRun (s : State) (st : Status) : State := { s with host := { s.host with status := some st } }

/-- `H.pc <- H.pc + 1`; reaching the end of the program ends the run with `Ok` (R21, R400). -/
def State.advance (s : State) : State :=
  { s with
    host := { s.host with
      pc := s.host.pc + 1
      status := if s.host.pc + 1 = s.host.program.length then some .ok else s.host.status } }

/-- `H.last <- v` (R22, R401). -/
def State.setLast (s : State) (v : RegVal) : State :=
  { s with host := { s.host with last := v, lastKnown := true } }

/-! ## Value layouts (R106) -/

/-- The bit of the real value where bit `k` of the model value stands. -/
def realBit : List LayoutPiece → Nat → Option Nat
  | [], _ => none
  | p :: rest, k => if k < p.width then some (p.lo + k) else realBit rest (k - p.width)

/-- Every bit of the model value that a layout places, with its bit of the real value. -/
def bitPairs (l : List LayoutPiece) : List (Nat × Nat) :=
  (List.range 32).filterMap fun k => (realBit l k).map fun r => (k, r)

/-- Copy bits of a register value: for each pair, its first bit to its second. -/
def moveBits (m : List (Nat × Nat)) (v : RegVal) : RegVal :=
  m.foldl (fun w x => if v.getLsbD x.1 then w ||| BitVec.ofNat 32 (2 ^ x.2) else w) 0

/-- The real register value of a model value (R106). -/
def toReal (l : List LayoutPiece) (v : RegVal) : RegVal := moveBits (bitPairs l) v

/-- The model value of a real register value (R106). -/
def toModel (l : List LayoutPiece) (w : RegVal) : RegVal := moveBits ((bitPairs l).map Prod.swap) w

/-! ## Which register an access reaches -/

/-- The bank bits an access of bank `b` mixes into the address (R106): those of the entry at position `b` (log entry 38). -/
def bankBits (c : Config) (b : Nat) (write : Bool) : Nat :=
  match c.i2cBanks[b]? with
  | some k => k.activationBit ||| (if write then k.writeEnableBit else 0)
  | none => 0

/-- The row of `REG_BINDING` of an operation (R106). -/
def regEntry (c : Config) (i : Instr) : Option RegEntry :=
  c.binding.find? (fun e => decide (e.unit = i.unit) && decide (e.op = i.op))

/-- The address a row gives an operation, with the bank bits of an I2C access (R106). -/
def boundAddr (c : Config) (e : RegEntry) (i : Instr) : Nat :=
  match i.bank? with
  | none => e.addr
  | some b => e.addr ||| bankBits c b i.isWrite

/-- The register address of an operation (R106); `none` where `REG_BINDING` gives it none (R71). Every access is a whole, aligned
32-bit register inside the address space (R7, R75): a row whose final address is not one, or whose value layout is none, gives no
register (DEDUCED, log entry 30). -/
def regAddr (c : Config) (i : Instr) : Option Nat :=
  match regEntry c i with
  | none => none
  | some e =>
    if decide (boundAddr c e i % 4 = 0) && decide (boundAddr c e i < 2 ^ c.regAddrBits) && layoutOk e.layout then
      some (boundAddr c e i)
    else none

/-- The register of an operation, whatever bank an access of it names: the banks of the I2C core share its registers (R24, R26),
and the bank bits only say which bank the access is for (R106). -/
def sameRegister (c : Config) (i j : Instr) : Bool :=
  decide ((regEntry c i).map RegEntry.addr = (regEntry c j).map RegEntry.addr)

/-- One access of the register interface (R70): `MemWrite(addr, 4, value)`, or a `MemRead(addr, 4)` that returned `value`. -/
structure BusAccess where
  write : Bool
  addr : Nat
  value : RegVal
  deriving DecidableEq, Repr

/-- The register access a block operation with this model value is (R70, R106). -/
def busAccess (c : Config) (i : Instr) (v : RegVal) : Option BusAccess :=
  match regAddr c i, regEntry c i with
  | some a, some e => some ⟨i.isWrite, a, toReal e.layout v⟩
  | _, _ => none

/-- The model value the block takes from the real value of an access of this operation (R106). -/
def modelValue (c : Config) (i : Instr) (w : RegVal) : RegVal :=
  match regEntry c i with
  | some e => toModel e.layout w
  | none => w

/-- The register accesses the block has performed, as the register interface carried them (R70, R89). -/
def State.busTrace (s : State) : List BusAccess :=
  s.history.filterMap fun e =>
    match e with
    | .access i v => busAccess s.cfg i v
    | _ => none

/-- The fault an access makes before it reaches its unit: a bank number out of range comes before anything else (R160),
then a unit of another lock domain (R438), then an unmapped address (R71). -/
def accessFault (c : Config) (i : Instr) : Option Fault :=
  if (match i.bank? with | some b => decide (c.i2cNumBanks ≤ b) | none => false) then some .i2cBank
  else if !(c.ownUnits.contains i.unit) then some .lockDomain
  else if (regAddr c i).isNone then some .badAddr
  else none

/-! ## Ordering -/

/-- The posted write `n` has not been performed yet (R81). -/
def RegPath.pending (p : RegPath) (n : Nat) : Bool := p.posted.any (fun w => decide (w.id = n))

/-- The write a fence names has been performed (R82). -/
def RegPath.fenceOpen (p : RegPath) : Bool :=
  match p.fence with
  | none => true
  | some n => !p.pending n

/-- Under posted writes, a word that is not a write leaves no write for `HOST.B2B` to order and uses up the fence (R407). -/
def State.passFence (s : State) : State :=
  match s.cfg.regOrder with
  | .inOrder => s
  | .postedUntilBarrier => { s with path := { s.path with prevWrite := none, fence := none } }

/-- Post a write (R81): it waits behind the write a fence orders before it (R82). -/
def State.post (s : State) (i : Instr) : State :=
  { s with path :=
    { posted := s.path.posted ++ [⟨s.path.nextId, i, s.path.fence⟩]
      nextId := s.path.nextId + 1
      prevWrite := some s.path.nextId
      fence := none } }

/-- A command write needs a free place in the command FIFO (R221). -/
def hasRoom (i : Instr) (s : State) : Bool :=
  match i with
  | .bpiCmd _ => decide (s.bpi.cmdq.length < s.cfg.bpiCmdFifoDepth)
  | _ => true

/-- Whether the block accepts the operation now (R401). A `BPI.CMD` write to a full command FIFO waits, in both orders (R221, R401);
with posted writes a barrier waits for every write too (R406) and a read behind a fence for its write (R407). -/
def accepts (i : Instr) (s : State) : Bool :=
  hasRoom i s &&
  match s.cfg.regOrder with
  | .inOrder => true
  | .postedUntilBarrier =>
    match i with
    | .hostBarrier => s.path.posted.isEmpty
    | _ => if i.isRead then s.path.fenceOpen else true

/-- The access event of a performed write (R401). -/
def State.recordWrite (s : State) (i : Instr) : State := s.record (.access i (BitVec.ofNat 32 i.value))

/-- Issue a register write whose effect is `f`: performed at once in `InOrder` (R80), posted otherwise (R81). -/
def issueWrite (i : Instr) (f : State → Except Fault State) (s : State) : Except Fault State :=
  match accessFault s.cfg i with
  | some e => .error e
  | none =>
    match s.cfg.regOrder with
    | .inOrder => mapOk (fun t => t.recordWrite i) (f s)
    | .postedUntilBarrier => .ok (s.post i)

/-- Issue a register read whose effect is `f`: the result goes to `H.last` and the access is recorded (R401). -/
def issueRead (i : Instr) (f : State → Except Fault (RegVal × State)) (s : State) : Except Fault State :=
  match accessFault s.cfg i with
  | some e => .error e
  | none =>
    match f s with
    | .error e => .error e
    | .ok (v, t) => .ok (((t.setLast v).record (.access i v)).passFence)

/-! ## One host step in program mode -/

/-- A write operation of a host program (R401): it waits while the block does not accept it. -/
def hostWrite (i : Instr) (f : State → Except Fault State) (s : State) : Host.Outcome State Fault Refusal :=
  if accepts i s then toOutcome (mapOk State.advance (issueWrite i f s)) else .next s

/-- A read operation of a host program (R401). -/
def hostRead (i : Instr) (f : State → Except Fault (RegVal × State)) (s : State) : Host.Outcome State Fault Refusal :=
  if accepts i s then toOutcome (mapOk State.advance (issueRead i f s)) else .next s

/-! ## The host agents of the other lock domains (R411) -/

/-- The machine has another lock domain `d`. -/
def State.hasDomain (s : State) (d : Nat) : Bool :=
  decide (d < s.others.length) && decide (d < s.cfg.otherDomains.length)

/-- The machine as the host agent of the other lock domain `d` has it: that agent, its accesses in flight and its units change
places with the first one's. The units, the environment and the history are the same; doing it twice changes nothing. -/
def State.swap (d : Nat) (s : State) : State :=
  match s.others[d]?, s.cfg.otherDomains[d]? with
  | some h, some us =>
    { s with
      cfg := { s.cfg with ownUnits := us, otherDomains := s.cfg.otherDomains.set d s.cfg.ownUnits }
      host := h.host
      path := h.path
      others := s.others.set d ⟨s.host, s.path⟩ }
  | _, _ => s

end Sys2Proof.Machine
end

