-- ==== Sys2Proof/Machine/Operands.lean ====
section
/-! DEFINITION. Operand forms: the fields of a BPI command word (10_state.md R39), the admissible ones (43_bpi.md R222), the
bytes of a word, the TAP next-state function (46_jtag.md R341), status codes (60_exceptions.md R420) and the I2C frequency
arithmetic (42_i2c.md R161, R162). -/

namespace Sys2Proof.Machine

/-! ## BPI command words (R39) -/

/-- `P = cmd[23:0]`. -/
def cmdP (c : RegVal) : BitVec 24 := c.extractLsb' 0 24

/-- `P[15:0]`. -/
def cmdData (c : RegVal) : Half := c.extractLsb' 0 16

def cmdAssertCs (c : RegVal) : Bool := c.getLsbD 24
def cmdDeassertCs (c : RegVal) : Bool := c.getLsbD 25
def cmdLoadAddr (c : RegVal) : Bool := c.getLsbD 26
def cmdWaitReady (c : RegVal) : Bool := c.getLsbD 27
def cmdBurst (c : RegVal) : Bool := c.getLsbD 28
def cmdRead (c : RegVal) : Bool := c.getLsbD 29
def cmdWrite (c : RegVal) : Bool := c.getLsbD 30
def cmdInc (c : RegVal) : Bool := c.getLsbD 31

/-- The nine checks of R222, in its order. -/
def cmdAdmissible (c : RegVal) : Bool :=
  !(cmdAssertCs c && cmdDeassertCs c) &&
  !(cmdRead c && cmdWrite c) &&
  (!cmdBurst c || (cmdRead c && cmdInc c)) &&
  (!cmdInc c || (cmdRead c || cmdWrite c)) &&
  (!cmdWaitReady c || !(cmdRead c || cmdWrite c || cmdBurst c)) &&
  decide ((cmdLoadAddr c).toNat + (cmdWrite c).toNat + (cmdBurst c).toNat ≤ 1) &&
  (!cmdLoadAddr c || !cmdInc c) &&
  ((cmdLoadAddr c || cmdWrite c || cmdBurst c) || decide (cmdP c = 0)) &&
  (!(cmdWrite c || cmdBurst c) || decide ((cmdP c).toNat < 65536))

/-- The command moves words into the read FIFO: a read, a burst or a status wait (R225 to R228). -/
def cmdPushes (c : RegVal) : Bool := cmdRead c || cmdWaitReady c

/-- A flash word of `BPI_WORD_BITS` bits, zero-extended (R34). -/
def flashWordOf (c : Config) (v : Half) : Half := BitVec.ofNat 16 (v.toNat % 2 ^ c.bpiWordBits)

/-- `(a + 1) & BPI_ADDRESS_MASK`: the address never leaves the bank (R227). -/
def nextFlashAddr (c : Config) (a : BitVec 24) : BitVec 24 := (a + 1) &&& c.bpiAddressMask

/-! ## Bytes of a register value (R47, R48) -/

/-- Byte `i` of a register value. -/
def byteAt (v : RegVal) (i : Nat) : Byte := v.extractLsb' (8 * i) 8

/-- The value whose byte `i` is `b` and whose other bytes are 0. -/
def byteInto (b : Byte) (i : Nat) : RegVal := (b.setWidth 32) <<< (8 * i)

/-! ## The TAP controller (R341) -/

/-- `TAP_NEXT`, the table of R341. -/
def tapNext : TapState → Bool → TapState
  | .testLogicReset, tms => if tms then .testLogicReset else .runTestIdle
  | .runTestIdle, tms => if tms then .selectDr else .runTestIdle
  | .selectDr, tms => if tms then .selectIr else .captureDr
  | .captureDr, tms => if tms then .exit1Dr else .shiftDr
  | .shiftDr, tms => if tms then .exit1Dr else .shiftDr
  | .exit1Dr, tms => if tms then .updateDr else .pauseDr
  | .pauseDr, tms => if tms then .exit2Dr else .pauseDr
  | .exit2Dr, tms => if tms then .updateDr else .shiftDr
  | .updateDr, tms => if tms then .selectDr else .runTestIdle
  | .selectIr, tms => if tms then .testLogicReset else .captureIr
  | .captureIr, tms => if tms then .exit1Ir else .shiftIr
  | .shiftIr, tms => if tms then .exit1Ir else .shiftIr
  | .exit1Ir, tms => if tms then .updateIr else .pauseIr
  | .pauseIr, tms => if tms then .exit2Ir else .pauseIr
  | .exit2Ir, tms => if tms then .updateIr else .shiftIr
  | .updateIr, tms => if tms then .selectDr else .runTestIdle

/-- The TAP after a TMS stream, first bit first. -/
def tapRun : TapState → List Bool → TapState
  | t, [] => t
  | t, b :: rest => tapRun (tapNext t b) rest

/-- The TAP states a tracked position stands for (R345). -/
def JtagState.covers : JtagState → TapState → Bool
  | .invalid, _ => true
  | .idle, t => decide (t = .runTestIdle)
  | .shiftDr, t => decide (t = .shiftDr)
  | .shiftIr, t => decide (t = .shiftIr)
  | .exit, t => decide (t = .exit1Dr) || decide (t = .exit1Ir)
  | .reset, t => decide (t = .testLogicReset)

/-! ## Status codes (R420) -/

/-- The status of a code; codes 7 to 15 are none. -/
def statusOfCode : Nat → Option Status
  | 0 => some .ok
  | 1 => some .invalidArgument
  | 2 => some .invalidOperation
  | 3 => some .invalidState
  | 4 => some .deviceIO
  | 5 => some .timeout
  | 6 => some .noAck
  | _ => none

/-! ## Frequencies -/

/-- `bus2core(f, clk)` (R161): the I2C prescaler of a bus frequency; `none` is `InvalidArgument`. -/
def bus2core (f clk : Nat) : Option Nat :=
  if f = 0 then none
  else if clk / (5 * f) < 1 then none
  else if clk / (5 * f) - 1 < 0x10000 then some (clk / (5 * f) - 1)
  else none

/-- `core2bus(p, clk)` (R162). -/
def core2bus (p clk : Nat) : Nat := clk / (5 * (p + 1))

/-- The prescaler search of R356: the least `n` from `n` on, at most `fuel` steps, with `(clk >> 1) >> n ≤ f`. -/
def jtagPrescSearch (clk f : Nat) : (fuel n : Nat) → Nat
  | 0, n => n
  | fuel + 1, n => if clk / 2 / 2 ^ n > f then jtagPrescSearch clk f fuel (n + 1) else n

/-- The prescaler of a requested test-clock frequency, capped at `2^W - 1` (R356). -/
def jtagPrescFor (c : Config) (f : Nat) : Nat := jtagPrescSearch c.jtagClk f (2 ^ c.jtagPrescalerBits - 1) 0

end Sys2Proof.Machine
end

