-- ==== Sys2Proof/Machine/Flags.lean ====
section
/-! DEFINITION. The status and data read values (10_state.md R31, R40, R43, R50, R54, R63): the units have no condition codes
(R23), so every flag is a bit of one of these, or of a field the unit rules write. Undefined bits of a read are 0 (R93). -/

namespace Sys2Proof.Machine

/-- A bit as a register value at position `k`. -/
def bitAt (b : Bool) (k : Nat) : RegVal := BitVec.ofNat 32 (b.toNat * 2 ^ k)

/-- The bank bit `I.busy[b]` (R30). -/
def I2cUnit.busyAt (u : I2cUnit) (b : Nat) : Bool := u.busy[b]?.getD false

/-- `I.busy[b] <- x`. -/
def State.setBusy (s : State) (b : Nat) (x : Bool) : State :=
  { s with i2c := { s.i2c with busy := s.i2c.busy.setIfInBounds b x } }

/-- `I.en = 1`: an enable that is still unknown counts as not enabled (R164). -/
def I2cUnit.enabled (u : I2cUnit) : Bool := u.enKnown && u.en

/-- The I2C STATUS value for bank `b` (R31, R177). -/
def i2cStatus (u : I2cUnit) (b : Nat) : RegVal := bitAt u.tip 0 ||| bitAt (u.busyAt b) 1 ||| bitAt u.rxack 2

/-- The `BPI.RDATA` value (R40): word, RFIFO_EMPTY, FIFO_FULL, FIFO_ERROR. -/
def bpiDataValue (w : Half) (empty full err : Bool) : RegVal :=
  w.setWidth 32 ||| bitAt empty 16 ||| bitAt full 17 ||| bitAt err 18

/-- The `BPI.RBANK` value (R43): BUSY and BANK. -/
def bpiBankValue (busy : Bool) (bank : Byte) : RegVal := bitAt busy 0 ||| (bank.setWidth 32) <<< 8

/-- The `SPI2.RCTRL` value (R50) of latched fields: VALID reads 0. -/
def spi2CtrlValue (c : Spi2Ctl) (notEmpty : Bool) : RegVal :=
  BitVec.ofNat 32 (spi2CtlValue { c with valid := false }) ||| bitAt notEmpty 16

/-- The `SPI2.RCTRL` value before the first performed control write (R45, R278): the latched fields are the answer's bits,
with VALID and the undefined bits `[7:6]` 0. -/
def spi2CtrlUnknown (v : RegVal) (notEmpty : Bool) : RegVal := (v &&& 0xF3B#32) ||| bitAt notEmpty 16

end Sys2Proof.Machine
end

