-- ==== Sys2Proof/Machine/Bpi.lean ====
section
/-! DEFINITION. The BPI command engine and the bank CPLD (43_bpi.md part 1): the register operations R221, R230 to R232, the
engine's execution of a command word R222 to R229 with its back-pressure R233, and the CPLD's completion R230. -/

namespace Sys2Proof.Machine

/-! ## Register operations -/

/-- Effect of `BPI.CMD` (R221). The wait for a free place is `accepts`. -/
def performBpiCmd (cmd : RegVal) (s : State) : Except Fault State :=
  .ok { s with bpi := { s.bpi with cmdq := s.bpi.cmdq ++ [cmd] } }

/-- Result of `BPI.RDATA` (R232): the word it returns leaves the FIFO; `FIFO_ERROR` is a draw on every read. -/
def readBpiData (s : State) : Except Fault (RegVal × State) :=
  let r := drawBit .fifoError s
  match s.bpi.rdq with
  | [] => .ok (bpiDataValue 0 true false r.1, r.2)
  | w :: rest =>
    .ok (bpiDataValue w false (decide (s.bpi.rdq.length = s.cfg.bpiReadFifoDepth)) r.1,
      { r.2 with bpi := { r.2.bpi with rdq := rest } })

/-- Effect of `BPI.WBANK` (R230). -/
def performBpiWbank (k : Byte) (s : State) : Except Fault State :=
  .ok { s with cpld := { s.cpld with bankReg := k, bankRegKnown := true, busy := true } }

/-- Result of `BPI.RBANK` (R231): without `BPI_BANK_VERIFY` the BANK field is a draw. -/
def readBpiBank (s : State) : Except Fault (RegVal × State) :=
  if s.cfg.bpiBankVerify then .ok (bpiBankValue s.cpld.busy s.cpld.bankEff, s)
  else
    let r := drawByte .bankField s
    .ok (bpiBankValue s.cpld.busy r.1, r.2)

/-! ## The CPLD's completion -/

/-- Completion of a bank write (R230). The bank the CPLD ends up driving; a register never written gives a free value (log
entry 12). -/
def cpldBank (s : State) : Byte × State :=
  let target := if s.cpld.bankRegKnown then (s.cpld.bankReg, s) else drawByte .cpldUnknown s
  if s.cfg.bpiCpldReliable then target
  else
    let took := drawBit .cpldTook target.2
    (if took.1 then target.1 else s.cpld.bankEff, took.2)

/-- The CPLD's completion step (R230). -/
def cpldStep (s : State) : State :=
  let r := cpldBank s
  ({ r.2 with cpld := { r.2.cpld with bankEff := r.1, busy := false } }).record (.cpldDone r.1)

/-- The CPLD's step is enabled while it is busy (R230). -/
def cpldEnabled (s : State) : Bool := s.cpld.busy

/-! ## The engine -/

/-- The command finishes: `DEASSERT_CS` takes effect (R223) and the command leaves the FIFO (R220). -/
def bpiFinish (cmd : RegVal) (s : State) : State :=
  ({ s with bpi := { s.bpi with
      cs := if cmdDeassertCs cmd then false else s.bpi.cs
      csKnown := if cmdDeassertCs cmd then true else s.bpi.csKnown
      cmdq := s.bpi.cmdq.tail } }).record (.bpiDone cmd)

/-- A flash word at `B.addr`, or any word while chip select is deasserted (R88, R225). -/
def flashRead (s : State) : Half × State :=
  let r := if s.bpi.cs then drawHalf (.flashWord s.cpld.bankEff s.bpi.addr) s else drawHalf .flashUndriven s
  (flashWordOf s.cfg r.1, r.2)

/-- A flash status word, or any word while chip select is deasserted (R226). -/
def flashStatus (s : State) : Half × State :=
  if s.bpi.cs then
    let r := drawHalf (.flashStatus s.cpld.bankEff) s
    (flashWordOf s.cfg r.1, r.2)
  else drawHalf .flashUndriven s

/-- `B.rdq <- B.rdq ++ [w]`. -/
def State.pushWord (s : State) (w : Half) : State := { s with bpi := { s.bpi with rdq := s.bpi.rdq ++ [w] } }

/-- `ASSERT_CS` at the start of a command (R223). -/
def bpiAssert (cmd : RegVal) (s : State) : State :=
  if cmdAssertCs cmd then { s with bpi := { s.bpi with cs := true, csKnown := true } } else s

/-- `LOAD_ADDR` (R224). -/
def bpiLoad (cmd : RegVal) (s : State) : State :=
  if cmdLoadAddr cmd then { s with bpi := { s.bpi with addr := cmdP cmd, addrKnown := true, primed := 0 } } else s

/-- Chip select has been set, by an earlier command or by this one (R36, R222). -/
def csReady (cmd : RegVal) (u : BpiUnit) : Bool := cmdAssertCs cmd || u.csKnown

/-- The address has been loaded, by an earlier command or by this one (R35, R222). -/
def addrReady (cmd : RegVal) (u : BpiUnit) : Bool := cmdLoadAddr cmd || u.addrKnown

/-- The rule of the access a command word asks for (R225 to R229). -/
def accessRule (cmd : RegVal) : Nat :=
  if cmdBurst cmd then 228
  else if cmdRead cmd then (if cmdInc cmd then 227 else 225)
  else if cmdWrite cmd then 229
  else 226

/-- The fault a command makes when the engine reaches it: R222's checks, an address outside the bank (R224), a word wider than
`BPI_WORD_BITS` (R229), a missing address or chip select (R225 to R229), a burst without its priming (R228). -/
def bpiStartFault (cmd : RegVal) (s : State) : Option Fault :=
  if !cmdAdmissible cmd then some (.bpiCmd 222)
  else if cmdLoadAddr cmd && decide (cmdP cmd &&& ~~~s.cfg.bpiAddressMask ≠ 0) then some (.bpiCmd 224)
  else if cmdWrite cmd && decide (2 ^ s.cfg.bpiWordBits ≤ (cmdData cmd).toNat) then some (.bpiCmd 229)
  else if (cmdRead cmd || cmdWrite cmd) && !(addrReady cmd s.bpi && csReady cmd s.bpi) then
    some (.unwritten (accessRule cmd))
  else if cmdWaitReady cmd && !csReady cmd s.bpi then some (.unwritten (accessRule cmd))
  else if cmdBurst cmd && decide (s.bpi.primed ≠ 3) then some .bpiUnprimed
  else none

/-- One step of a status wait (R226): push a status word; a ready word finishes the command. -/
def bpiStatusStep (cmd : RegVal) (s : State) : State :=
  let r := flashStatus s
  let t := r.2.pushWord r.1
  if r.1.getLsbD Config.bpiReadyBit then bpiFinish cmd { t with bpi := { t.bpi with waiting := false } } else t

/-- One step of a burst (R228): pre-increment (log entry 34), push, count down; the last word finishes the command. -/
def bpiBurstStep (cmd : RegVal) (s : State) : State :=
  let u := { s with bpi := { s.bpi with addr := nextFlashAddr s.cfg s.bpi.addr, burstLeft := s.bpi.burstLeft - 1 } }
  let r := flashRead u
  let t := r.2.pushWord r.1
  if t.bpi.burstLeft = 0 then bpiFinish cmd t else t

/-- `READ` without `INC` (R225). -/
def bpiReadWord (s : State) : State :=
  let r := flashRead s
  let t := r.2.pushWord r.1
  { t with bpi := { t.bpi with primed := 1 } }

/-- `READ` with `INC` (R227): pre-increment; the priming counter moves on from 1 and 2. The pseudocode of R227 to R229 increments
before the access, 92_eei_decisions.md D22 says after it: the model follows the pseudocode, DEDUCED (log entry 34). -/
def bpiReadInc (s : State) : State :=
  let u := { s with bpi := { s.bpi with addr := nextFlashAddr s.cfg s.bpi.addr } }
  let r := flashRead u
  let t := r.2.pushWord r.1
  { t with bpi := { t.bpi with
      primed := if t.bpi.primed = 1 ∨ t.bpi.primed = 2 then t.bpi.primed + 1 else t.bpi.primed } }

/-- `WRITE`, with or without `INC` (R229; the increment comes first, log entry 34): recorded when a flash is selected, and no later read is computed from it. -/
def bpiWriteWord (cmd : RegVal) (s : State) : State :=
  let u := if cmdInc cmd then { s with bpi := { s.bpi with addr := nextFlashAddr s.cfg s.bpi.addr } } else s
  let t := if u.bpi.cs then u.record (.flashWrite u.cpld.bankEff u.bpi.addr (cmdData cmd)) else u
  { t with bpi := { t.bpi with primed := 0 } }

/-- The access of an admissible command after `ASSERT_CS` and `LOAD_ADDR`, up to its end (R222's order). -/
def bpiAccess (cmd : RegVal) (s : State) : State :=
  if cmdBurst cmd then
    bpiBurstStep cmd { s with bpi := { s.bpi with burstLeft := (cmdData cmd).toNat + 1 } }
  else if cmdRead cmd then bpiFinish cmd (if cmdInc cmd then bpiReadInc s else bpiReadWord s)
  else if cmdWrite cmd then bpiFinish cmd (bpiWriteWord cmd s)
  else if cmdWaitReady cmd then bpiStatusStep cmd { s with bpi := { s.bpi with waiting := true } }
  else bpiFinish cmd s

/-- The engine starts the command at the head of the FIFO (R222). -/
def bpiStart (cmd : RegVal) (s : State) : Except Fault State :=
  match bpiStartFault cmd s with
  | some e => .error e
  | none => .ok (bpiAccess cmd (bpiLoad cmd (bpiAssert cmd s)))

/-- One step of the engine (R220): go on with the command in progress, or start the next one. -/
def bpiStep (s : State) : Except Fault State :=
  match s.bpi.cmdq with
  | [] => .ok s
  | cmd :: _ =>
    if s.bpi.waiting then .ok (bpiStatusStep cmd s)
    else if s.bpi.burstLeft ≠ 0 then .ok (bpiBurstStep cmd s)
    else bpiStart cmd s

/-- The engine's next step would push a word (R233). -/
def bpiWouldPush (s : State) : Bool :=
  match s.bpi.cmdq with
  | [] => false
  | cmd :: _ =>
    s.bpi.waiting || decide (s.bpi.burstLeft ≠ 0) || (decide (bpiStartFault cmd s = none) && cmdPushes cmd)

/-- The engine is enabled while it has a command and a place for the word it would push (R220, R233). -/
def bpiEnabled (s : State) : Bool :=
  !s.bpi.cmdq.isEmpty && !(bpiWouldPush s && decide (s.cfg.bpiReadFifoDepth ≤ s.bpi.rdq.length))

/-! ## Host steps -/

/-- `BPI.CMD` (R221). -/
def execBpiCmd (cmd : RegVal) (s : State) : Host.Outcome State Fault Refusal :=
  hostWrite (.bpiCmd cmd) (performBpiCmd cmd) s

/-- `BPI.RDATA` (R232). -/
def execBpiRdata (s : State) : Host.Outcome State Fault Refusal :=
  hostRead .bpiRdata readBpiData s

/-- `BPI.WBANK` (R230). -/
def execBpiWbank (k : Byte) (s : State) : Host.Outcome State Fault Refusal :=
  hostWrite (.bpiWbank k) (performBpiWbank k) s

/-- `BPI.RBANK` (R231). -/
def execBpiRbank (s : State) : Host.Outcome State Fault Refusal :=
  hostRead .bpiRbank readBpiBank s

end Sys2Proof.Machine
end

