-- ==== Sys2Proof/Machine/HostOps.lean ====
section
/-! DEFINITION. The host operations (48_host.md part 2): R402 to R407. -/

namespace Sys2Proof.Machine

/-- A poll of this read has a bound (R403): every one but `SPI2.RCTRL` (R282, R477). -/
def pollBounded : Instr → Bool
  | .spi2Rctrl => false
  | _ => true

/-- The operation at index `i` of the program, when its word is legal. -/
def programInstr (s : State) (i : Nat) : Option Instr :=
  match s.host.program[i]? with
  | none => none
  | some w => decode w

/-- The read operation a poll at the current index repeats: the word just before it, when that is a read (R402). -/
def polledRead (s : State) : Option Instr :=
  match s.host.pc with
  | 0 => none
  | i + 1 =>
    match programInstr s i with
    | none => none
    | some r => if r.isRead then some r else none

/-- Whether a bound has expired: drawn at a failed test of a bounded poll, never for an unbounded one (R403). -/
def pollExpired (bounded : Bool) (s : State) : Bool × State :=
  if bounded then drawBit .pollExpired s else (false, s)

/-- `H.pc <- H.pc - 1`: the read runs again, then the poll (R402). -/
def State.stepBack (s : State) : State := { s with host := { s.host with pc := s.host.pc - 1 } }

/-- A failed test of a poll (R402). -/
def pollFailed (bounded : Bool) (s : State) : State :=
  let r := pollExpired bounded s
  if r.1 then r.2.endRun .timeout else r.2.stepBack

/-- `HOST.POLL` (R402). -/
def execHostPoll (k : Nat) (p : Bool) (s : State) : Host.Outcome State Fault Refusal :=
  match polledRead s with
  | none => .fault .hostPoll
  | some r =>
    if !s.host.lastKnown then .fault (.unwritten 402)
    else if s.host.last.getLsbD k = p then .next s.passFence.advance
    else .next (pollFailed (pollBounded r) s.passFence)

/-- `HOST.CHECK` (R404). -/
def execHostCheck (k : Nat) (p : Bool) (st : Nat) (s : State) : Host.Outcome State Fault Refusal :=
  match statusOfCode st with
  | none => .fault (.illegal 404)
  | some status =>
    if !s.host.lastKnown then .fault (.unwritten 404)
    else if s.host.last.getLsbD k = p then .next s.passFence.advance
    else .next (s.passFence.endRun status)

/-- `HOST.HALT` (R405). -/
def execHostHalt (st : Nat) (s : State) : Host.Outcome State Fault Refusal :=
  match statusOfCode st with
  | none => .fault (.illegal 405)
  | some status => .next (s.passFence.endRun status)

/-- `HOST.BARRIER` (R406): it waits until every access before it has been performed. -/
def execHostBarrier (s : State) : Host.Outcome State Fault Refusal :=
  if accepts .hostBarrier s then .next ((s.passFence.record .barrier).advance) else .next s

/-- The fence a `HOST.B2B` leaves: the write issued by the word before is performed before the next access (R407). Under
`InOrder` there is nothing to order (R82). -/
def State.backToBack (s : State) : State :=
  match s.cfg.regOrder with
  | .inOrder => s
  | .postedUntilBarrier => { s with path := { s.path with fence := s.path.prevWrite, prevWrite := none } }

/-- `HOST.B2B` (R407). -/
def execHostB2b (s : State) : Host.Outcome State Fault Refusal :=
  .next ((s.backToBack.record .b2b).advance)

end Sys2Proof.Machine
end

