-- ==== Sys2Proof/Machine/I2c.lean ====
section
/-! DEFINITION. The I2C unit (42_i2c.md part 1): the eleven operations R164 to R178 and the completion steps R171, R174, R176.
The bank check of R160 is made once, in `accessFault`. `perform…` is the effect on the block; `exec…` is the host step. -/

namespace Sys2Proof.Machine

/-! ## Register operations -/

/-- Effect of `I2C.WPRE_LO` (R164). -/
def performI2cWpreLo (v : Byte) (s : State) : Except Fault State :=
  if s.i2c.enabled then .error (.i2cPrescEn 164)
  else .ok { s with i2c := { s.i2c with preLo := v, preLoKnown := true } }

/-- Effect of `I2C.WPRE_HI` (R165). -/
def performI2cWpreHi (v : Byte) (s : State) : Except Fault State :=
  if s.i2c.enabled then .error (.i2cPrescEn 165)
  else .ok { s with i2c := { s.i2c with preHi := v, preHiKnown := true } }

/-- Result of `I2C.RPRE_LO` (R166). -/
def readI2cPreLo (s : State) : Except Fault (RegVal × State) :=
  if s.i2c.preLoKnown then .ok (s.i2c.preLo.setWidth 32, s) else .error (.unwritten 166)

/-- Result of `I2C.RPRE_HI` (R167). -/
def readI2cPreHi (s : State) : Except Fault (RegVal × State) :=
  if s.i2c.preHiKnown then .ok (s.i2c.preHi.setWidth 32, s) else .error (.unwritten 167)

/-- `I.busy[b] <- draw bit` (R168). -/
def redrawBusy (b : Nat) (s : State) : State :=
  let r := drawBit (.i2cBusy b) s
  r.2.setBusy b r.1

/-- `for each bank x: I.busy[x] <- draw bit`, from bank `b` on, `n` banks (R168). -/
def redrawBanks : (n b : Nat) → State → State
  | 0, _, s => s
  | n + 1, b, s => redrawBanks n (b + 1) (redrawBusy b s)

/-- The bank of an operation in progress. -/
def I2cOp.bank : I2cOp → Nat
  | .write b _ _ _ => b
  | .read b _ _ _ => b
  | .stop b => b

/-- `I.pending <- empty; I.tip <- 0`. -/
def State.endTransfer (s : State) : State := { s with i2c := { s.i2c with pending := none, tip := false } }

/-- Abandon the transfer in progress: its bus state is drawn, `I.rx` and `I.rxack` stay (R168). -/
def abandonTransfer (s : State) : State :=
  match s.i2c.pending with
  | some op => redrawBusy op.bank s.endTransfer
  | none => s.endTransfer

/-- `I.en <- e` (R168). -/
def State.setEnable (s : State) (e : Bool) : State := { s with i2c := { s.i2c with en := e, enKnown := true } }

/-- Effect of `I2C.WCTRL` (R168). -/
def performI2cWctrl (e : Bool) (s : State) : Except Fault State :=
  .ok (if e && !s.i2c.enabled then redrawBanks s.cfg.i2cNumBanks 0 (s.setEnable e)
       else if !e && s.i2c.tip then abandonTransfer (s.setEnable e)
       else s.setEnable e)

/-- Result of `I2C.RCTRL` (R169). -/
def readI2cCtrl (s : State) : Except Fault (RegVal × State) :=
  if s.i2c.enKnown then .ok (bitAt s.i2c.en 0, s) else .error (.unwritten 169)

/-- The rule that starts an operation (R170, R172, R175). -/
def I2cOp.rule : I2cOp → Nat
  | .write _ _ _ _ => 170
  | .read _ _ _ _ => 172
  | .stop _ => 175

/-- What a transfer needs (R170, R172, R175): a written enable, the core enabled, no transfer in progress. -/
def transferFault (rule : Nat) (u : I2cUnit) : Option Fault :=
  if !u.enKnown then some (.unwritten rule)
  else if !u.en then some (.i2cDisabled rule)
  else if u.tip then some (.i2cTip rule)
  else none

/-- Start a transfer: `I.pending <- op; I.tip <- 1` (R170, R172, R175). -/
def startTransfer (op : I2cOp) (s : State) : Except Fault State :=
  match transferFault op.rule s.i2c with
  | some e => .error e
  | none => .ok { s with i2c := { s.i2c with pending := some op, tip := true } }

/-- Effect of `I2C.WRITE` at issue (R170): the byte also enters the transmit FIFO. -/
def performI2cWrite (b : Nat) (d : Byte) (sta sto : Bool) (s : State) : Except Fault State :=
  mapOk (fun t => { t with i2c := { t.i2c with tx := d, txKnown := true } }) (startTransfer (.write b d sta sto) s)

/-- Effect of `I2C.READ` at issue (R172). -/
def performI2cRead (b : Nat) (sta sto nack : Bool) (s : State) : Except Fault State :=
  startTransfer (.read b sta sto nack) s

/-- Effect of `I2C.STOP` at issue (R175). -/
def performI2cStop (b : Nat) (s : State) : Except Fault State :=
  startTransfer (.stop b) s

/-- Result of `I2C.RSTAT` (R177). -/
def readI2cStat (b : Nat) (s : State) : Except Fault (RegVal × State) := .ok (i2cStatus s.i2c b, s)

/-- Result of `I2C.RDATA` (R178): the FIFO is not emptied. -/
def readI2cData (s : State) : Except Fault (RegVal × State) :=
  match s.i2c.rx with
  | none => .error .i2cRxEmpty
  | some d => .ok (d.setWidth 32, s)

/-! ## Completion steps -/

/-- START on bus `b` if the operation asks for one (R171, R174). -/
def startIf (sta : Bool) (b : Nat) (s : State) : State := if sta then s.setBusy b true else s

/-- STOP on bus `b` if the operation asks for one (R171, R174). -/
def stopIf (sto : Bool) (b : Nat) (s : State) : State := if sto then s.setBusy b false else s

/-- The acknowledge bit of a written byte (R171): 1 with no draw when no slave is addressed. -/
def ackOf (addressed : Bool) (b : Nat) (d : Byte) (s : State) : Bool × State :=
  if addressed then drawBit (.i2cAck b d) s else (true, s)

/-- Completion of `I2C.WRITE` (R171). -/
def completeI2cWrite (b : Nat) (d : Byte) (sta sto : Bool) (s : State) : State :=
  let r := ackOf (sta || s.i2c.busyAt b) b d (startIf sta b s)
  let t := { r.2 with i2c := { r.2.i2c with rxack := r.1 } }
  ((stopIf sto b t).endTransfer).record (.i2cWrite b sta d r.1 sto)

/-- The byte a read shifts in (R174): any byte when no slave is addressed. -/
def readByteOf (addressed : Bool) (b : Nat) (nack : Bool) (s : State) : Byte × State :=
  if addressed then drawByte (.i2cData b nack) s else drawByte (.i2cUndriven b) s

/-- Completion of `I2C.READ` (R174). -/
def completeI2cRead (b : Nat) (sta sto nack : Bool) (s : State) : State :=
  let r := readByteOf (sta || s.i2c.busyAt b) b nack (startIf sta b s)
  let t := { r.2 with i2c := { r.2.i2c with rx := some r.1 } }
  ((stopIf sto b t).endTransfer).record (.i2cRead b sta r.1 nack sto)

/-- Completion of `I2C.STOP` (R176). -/
def completeI2cStop (b : Nat) (s : State) : State :=
  ((s.setBusy b false).endTransfer).record (.i2cStop b)

/-- The unit step is enabled while a transfer is in progress (R171, R174, R176). -/
def i2cEnabled (s : State) : Bool := s.i2c.tip && s.i2c.pending.isSome

/-- The completion step of the I2C unit. -/
def i2cStep (s : State) : State :=
  match s.i2c.pending with
  | some (.write b d sta sto) => completeI2cWrite b d sta sto s
  | some (.read b sta sto nack) => completeI2cRead b sta sto nack s
  | some (.stop b) => completeI2cStop b s
  | none => s

/-! ## Host steps -/

/-- `I2C.WPRE_LO` (R164). -/
def execI2cWpreLo (b : Nat) (v : Byte) (s : State) : Host.Outcome State Fault Refusal :=
  hostWrite (.i2cWpreLo b v) (performI2cWpreLo v) s

/-- `I2C.WPRE_HI` (R165). -/
def execI2cWpreHi (b : Nat) (v : Byte) (s : State) : Host.Outcome State Fault Refusal :=
  hostWrite (.i2cWpreHi b v) (performI2cWpreHi v) s

/-- `I2C.RPRE_LO` (R166). -/
def execI2cRpreLo (b : Nat) (s : State) : Host.Outcome State Fault Refusal :=
  hostRead (.i2cRpreLo b) readI2cPreLo s

/-- `I2C.RPRE_HI` (R167). -/
def execI2cRpreHi (b : Nat) (s : State) : Host.Outcome State Fault Refusal :=
  hostRead (.i2cRpreHi b) readI2cPreHi s

/-- `I2C.WCTRL` (R168). -/
def execI2cWctrl (b : Nat) (en : Bool) (s : State) : Host.Outcome State Fault Refusal :=
  hostWrite (.i2cWctrl b en) (performI2cWctrl en) s

/-- `I2C.RCTRL` (R169). -/
def execI2cRctrl (b : Nat) (s : State) : Host.Outcome State Fault Refusal :=
  hostRead (.i2cRctrl b) readI2cCtrl s

/-- `I2C.WRITE` (R170). -/
def execI2cWrite (b : Nat) (d : Byte) (sta sto : Bool) (s : State) : Host.Outcome State Fault Refusal :=
  hostWrite (.i2cWrite b d sta sto) (performI2cWrite b d sta sto) s

/-- `I2C.READ` (R172). -/
def execI2cRead (b : Nat) (sta sto nack : Bool) (s : State) : Host.Outcome State Fault Refusal :=
  hostWrite (.i2cRead b sta sto nack) (performI2cRead b sta sto nack) s

/-- `I2C.STOP` (R175). -/
def execI2cStop (b : Nat) (s : State) : Host.Outcome State Fault Refusal :=
  hostWrite (.i2cStop b) (performI2cStop b) s

/-- `I2C.RSTAT` (R177). -/
def execI2cRstat (b : Nat) (s : State) : Host.Outcome State Fault Refusal :=
  hostRead (.i2cRstat b) (readI2cStat b) s

/-- `I2C.RDATA` (R178). -/
def execI2cRdata (b : Nat) (s : State) : Host.Outcome State Fault Refusal :=
  hostRead (.i2cRdata b) readI2cData s

end Sys2Proof.Machine
end

