-- ==== Sys2Proof/Machine/Jtag.lean ====
section
/-! DEFINITION. The JTAG shifter and the target's TAP controller (46_jtag.md part 1): R340 to R344. -/

namespace Sys2Proof.Machine

/-- Effect of `JTAG.SHIFT` at issue (R340), from a program or a host procedure alike (log entry 40). -/
def performJtagShift (count : Nat) (tms tdi : Half) (s : State) : Except Fault State :=
  if s.jtag.busy then .error (.jtagBusy 340)
  else .ok { s with jtag := { s.jtag with pending := ⟨count, tms, tdi⟩, busy := true } }

/-- Result of `JTAG.RTDO` (R342): a draw before any frame has completed. -/
def readJtagTdo (s : State) : Except Fault (RegVal × State) :=
  if s.jtag.tdoKnown then .ok (s.jtag.tdo.setWidth 32, s)
  else
    let r := drawHalf .tdoUnknown s
    .ok (r.1.setWidth 32, r.2)

/-- The low `JTAG_PRESCALER_BITS` bits of a prescaler value (R56, R343). -/
def prescOf (c : Config) (n : Half) : Half := BitVec.ofNat 16 (n.toNat % 2 ^ c.jtagPrescalerBits)

/-- Effect of `JTAG.WPRESC` (R343). -/
def performJtagWpresc (n : Half) (s : State) : Except Fault State :=
  if s.jtag.busy then .error (.jtagBusy 343)
  else .ok { s with jtag := { s.jtag with presc := prescOf s.cfg n, prescKnown := true } }

/-- The test clock in Hz that the prescaler sets, `JTAG_CLK / 2^(n+1)` (R343); none before the first prescaler write (R56). No step
reads it: the model has no time (R473). -/
def State.testClock (s : State) : Option Rat :=
  if s.jtag.prescKnown then some ((s.cfg.jtagClk : Rat) / 2 ^ (s.jtag.presc.toNat + 1)) else none

/-- Result of `JTAG.RSTAT` (R344). -/
def readJtagStat (s : State) : Except Fault (RegVal × State) := .ok (bitAt s.jtag.busy 0, s)

/-- One test clock (R341): TDO is sampled, then the TAP moves on TMS. -/
def jtagClock (tms tdi : Bool) (s : State) : Bool × State :=
  let r := drawBit (.tdo s.tap tdi) s
  (r.1, { r.2.record (.jtagClock s.tap tms tdi r.1) with tap := tapNext s.tap tms })

/-- Clocks `i` to `i + n - 1` of a frame, with the TDO bits captured so far (R341). -/
def jtagClocks (f : JtagFrame) : (n i : Nat) → (out : Half) → State → Half × State
  | 0, _, out, s => (out, s)
  | n + 1, i, out, s =>
    let r := jtagClock (f.tms.getLsbD i) (f.tdi.getLsbD i) s
    jtagClocks f n (i + 1) (out ||| BitVec.ofNat 16 (r.1.toNat * 2 ^ i)) r.2

/-- Completion of `JTAG.SHIFT` (R341). -/
def jtagStep (s : State) : State :=
  let r := jtagClocks s.jtag.pending s.jtag.pending.count 0 0 s
  { r.2 with jtag := { r.2.jtag with tdo := r.1, tdoKnown := true, busy := false } }

/-- The unit step is enabled while a frame is in progress (R341). -/
def jtagEnabled (s : State) : Bool := s.jtag.busy

/-- `JTAG.SHIFT` (R340). -/
def execJtagShift (count : Nat) (tms tdi : Half) (s : State) : Host.Outcome State Fault Refusal :=
  hostWrite (.jtagShift count tms tdi) (performJtagShift count tms tdi) s

/-- `JTAG.RTDO` (R342). -/
def execJtagRtdo (s : State) : Host.Outcome State Fault Refusal :=
  hostRead .jtagRtdo readJtagTdo s

/-- `JTAG.WPRESC` (R343). -/
def execJtagWpresc (n : Half) (s : State) : Host.Outcome State Fault Refusal :=
  hostWrite (.jtagWpresc n) (performJtagWpresc n) s

/-- `JTAG.RSTAT` (R344). -/
def execJtagRstat (s : State) : Host.Outcome State Fault Refusal :=
  hostRead .jtagRstat readJtagStat s

end Sys2Proof.Machine
end

