-- ==== Sys2Proof/Machine/Spi2.lean ====
section
/-! DEFINITION. The SPI-v2 controller (44_spi_v2.md part 1): R271 to R280. -/

namespace Sys2Proof.Machine

/-! ## Register operations -/

/-- Effect of `SPI2.WCTRL` at issue (R271): the control word joins the queue with the data register as it is now. -/
def performSpi2Wctrl (ctl : Spi2Ctl) (s : State) : Except Fault State :=
  .ok { s with spi2 := { s.spi2 with accq := s.spi2.accq ++ [⟨ctl, s.spi2.txd, s.spi2.txdKnown⟩] } }

/-- Result of `SPI2.RCTRL` (R278); the latched fields are draws before the first performed control write (R45). -/
def readSpi2Ctrl (s : State) : Except Fault (RegVal × State) :=
  if s.spi2.ctrlKnown then .ok (spi2CtrlValue s.spi2.ctrl (!s.spi2.rdq.isEmpty), s)
  else
    let r := draw .spi2Ctrl s
    .ok (spi2CtrlUnknown r.1 (!s.spi2.rdq.isEmpty), r.2)

/-- Effect of `SPI2.WDATA` (R279). -/
def performSpi2Wdata (v : RegVal) (s : State) : Except Fault State :=
  .ok { s with spi2 := { s.spi2 with txd := v, txdKnown := true } }

/-- Result of `SPI2.RDATA` (R280): the entry leaves the FIFO. -/
def readSpi2Data (s : State) : Except Fault (RegVal × State) :=
  match s.spi2.rdq with
  | [] => .error .spi2RxEmpty
  | e :: rest => .ok (e, { s with spi2 := { s.spi2 with rdq := rest } })

/-! ## The unit step -/

/-- Bytes `i` to `i + n - 1` of a write access (R273). -/
def spi2WriteBytes (ctl : Spi2Ctl) (txd : RegVal) (disturbed : Bool) : (n i : Nat) → State → State
  | 0, _, s => s
  | n + 1, i, s =>
    spi2WriteBytes ctl txd disturbed n (i + 1)
      (s.record (.spiWrite ctl.dev ctl.quad ctl.cs (byteAt txd i) disturbed))

/-- The control word selects a device: chip select is asserted and `DEV` is the number of one of the `2^SPI2_DEV_BITS` devices; a
`DEV` with no device behind it selects nothing (R276). -/
def spi2Selects (c : Config) (ctl : Spi2Ctl) : Bool := ctl.cs && decide (ctl.dev.toNat < 2 ^ c.spi2DevBits)

/-- One byte of a read access (R274, R276): the device's when one is selected and the access undisturbed, else any byte. -/
def spi2ReadByte (ctl : Spi2Ctl) (disturbed : Bool) (s : State) : Byte × State :=
  if spi2Selects s.cfg ctl && !disturbed then drawByte (.spiByte ctl.dev ctl.quad) s else drawByte .spiUndriven s

/-- Bytes `i` to `i + n - 1` of a read access, joined to the entry so far (R274). -/
def spi2ReadBytes (ctl : Spi2Ctl) (disturbed : Bool) : (n i : Nat) → RegVal → State → RegVal × State
  | 0, _, e, s => (e, s)
  | n + 1, i, e, s =>
    let r := spi2ReadByte ctl disturbed s
    spi2ReadBytes ctl disturbed n (i + 1) (e ||| byteInto r.1 i) r.2

/-- `CNT_M1 + 1` bytes (R272). -/
def spi2Count (ctl : Spi2Ctl) : Nat := ctl.cntM1.toNat + 1

/-- A read access (R274): one read FIFO entry. -/
def spi2ReadAccess (ctl : Spi2Ctl) (disturbed : Bool) (s : State) : State :=
  let r := spi2ReadBytes ctl disturbed (spi2Count ctl) 0 0 s
  ({ r.2 with spi2 := { r.2.spi2 with rdq := r.2.spi2.rdq ++ [r.1] } }).record
    (.spiRead ctl.dev ctl.quad ctl.cs r.1 (spi2Count ctl))

/-- Perform one queued control write (R271): latch the fields, then do its access. -/
def spi2Perform (a : Spi2Access) (s : State) : State :=
  let latched := { s with spi2 := { s.spi2 with ctrl := { a.ctl with valid := false }, ctrlKnown := true } }
  if a.ctl.valid then
    let d := s.spi2.fresh
    let t := { latched with spi2 := { latched.spi2 with fresh := false } }
    (if a.ctl.rw then spi2ReadAccess a.ctl d t
     else spi2WriteBytes a.ctl a.txd d (spi2Count a.ctl) 0 t).record (.spi2Done a.ctl)
  else latched.record (.spi2Done a.ctl)

/-- The unit step (R271): a write access needs a data register that has been written. -/
def spi2Step (s : State) : Except Fault State :=
  match s.spi2.accq with
  | [] => .ok s
  | a :: rest =>
    if a.ctl.valid && !a.ctl.rw && !a.txdKnown then .error (.unwritten 271)
    else .ok (spi2Perform a { s with spi2 := { s.spi2 with accq := rest } })

/-- The unit step is enabled while a control write is queued (R271). -/
def spi2Enabled (s : State) : Bool := !s.spi2.accq.isEmpty

/-! ## Host steps -/

/-- `SPI2.WCTRL` (R271). -/
def execSpi2Wctrl (ctl : Spi2Ctl) (s : State) : Host.Outcome State Fault Refusal :=
  hostWrite (.spi2Wctrl ctl) (performSpi2Wctrl ctl) s

/-- `SPI2.RCTRL` (R278). -/
def execSpi2Rctrl (s : State) : Host.Outcome State Fault Refusal :=
  hostRead .spi2Rctrl readSpi2Ctrl s

/-- `SPI2.WDATA` (R279). -/
def execSpi2Wdata (v : RegVal) (s : State) : Host.Outcome State Fault Refusal :=
  hostWrite (.spi2Wdata v) (performSpi2Wdata v) s

/-- `SPI2.RDATA` (R280). -/
def execSpi2Rdata (s : State) : Host.Outcome State Fault Refusal :=
  hostRead .spi2Rdata readSpi2Data s

end Sys2Proof.Machine
end

