-- ==== Sys2Proof/Machine/Spid.lean ====
section
/-! DEFINITION. The SPI-dual controller (45_spi_dual.md part 1): R301 to R304. The lines change at once; the unit has no step
of its own. -/

namespace Sys2Proof.Machine

/-- The clock edge of a control write, if the flash is selected and the old level is known (R301, R304). While `D.fsel` is unknown
the edge names no flash select (log entry 28). -/
def spidEdge (c : SpidCtl) (s : State) : State :=
  if s.spid.ctrlKnown && c.cs then
    if !s.spid.ctrl.sck && c.sck then s.record (.spidRise s.spid.select c.dout c.oe)
    else if s.spid.ctrl.sck && !c.sck then s.record (.spidFall s.spid.select)
    else s
  else s

/-- Effect of `SPID.WCTRL` (R301). -/
def performSpidWctrl (c : SpidCtl) (s : State) : Except Fault State :=
  let t := spidEdge c s
  .ok (({ t with spid := { t.spid with ctrl := c, ctrlKnown := true } }).record (.spidCtrl c))

/-- Effect of `SPID.WFSEL` (R302). -/
def performSpidWfsel (v : BitVec 4) (s : State) : Except Fault State :=
  .ok (({ s with spid := { s.spid with fsel := v, fselKnown := true } }).record (.spidFsel v))

/-- The level of line `i` (R303): a driven line reads back, any other is the environment's; while `D.fsel` is unknown the question
names no flash select (log entry 28). -/
def spidLine (i : Nat) (s : State) : Bool × State :=
  if s.spid.ctrlKnown && s.spid.ctrl.oe.getLsbD i then (s.spid.ctrl.dout.getLsbD i, s)
  else drawBit (.spidLine s.spid.select i) s

/-- Result of `SPID.RIN` (R303): lines D0 to D3 in order. -/
def readSpidIn (s : State) : Except Fault (RegVal × State) :=
  let r0 := spidLine 0 s
  let r1 := spidLine 1 r0.2
  let r2 := spidLine 2 r1.2
  let r3 := spidLine 3 r2.2
  .ok (bitAt r0.1 0 ||| bitAt r1.1 1 ||| bitAt r2.1 2 ||| bitAt r3.1 3, r3.2)

/-- `SPID.WCTRL` (R301). -/
def execSpidWctrl (c : SpidCtl) (s : State) : Host.Outcome State Fault Refusal :=
  hostWrite (.spidWctrl c) (performSpidWctrl c) s

/-- `SPID.WFSEL` (R302). -/
def execSpidWfsel (v : BitVec 4) (s : State) : Host.Outcome State Fault Refusal :=
  hostWrite (.spidWfsel v) (performSpidWfsel v) s

/-- `SPID.RIN` (R303). -/
def execSpidRin (s : State) : Host.Outcome State Fault Refusal :=
  hostRead .spidRin readSpidIn s

end Sys2Proof.Machine
end

