-- ==== Sys2Proof/Machine/Dispatch.lean ====
section
/-! DEFINITION. One host step in program mode for a decoded word (48_host.md rule R401): one arm per operation of R97. -/

namespace Sys2Proof.Machine

def exec (i : Instr) (s : State) : Host.Outcome State Fault Refusal :=
  match i with
  | .i2cWpreLo b v => Sys2Proof.Machine.execI2cWpreLo b v s
  | .i2cWpreHi b v => Sys2Proof.Machine.execI2cWpreHi b v s
  | .i2cRpreLo b => Sys2Proof.Machine.execI2cRpreLo b s
  | .i2cRpreHi b => Sys2Proof.Machine.execI2cRpreHi b s
  | .i2cWctrl b en => Sys2Proof.Machine.execI2cWctrl b en s
  | .i2cRctrl b => Sys2Proof.Machine.execI2cRctrl b s
  | .i2cWrite b d sta sto => Sys2Proof.Machine.execI2cWrite b d sta sto s
  | .i2cRead b sta sto nack => Sys2Proof.Machine.execI2cRead b sta sto nack s
  | .i2cStop b => Sys2Proof.Machine.execI2cStop b s
  | .i2cRstat b => Sys2Proof.Machine.execI2cRstat b s
  | .i2cRdata b => Sys2Proof.Machine.execI2cRdata b s
  | .bpiCmd cmd => Sys2Proof.Machine.execBpiCmd cmd s
  | .bpiRdata => Sys2Proof.Machine.execBpiRdata s
  | .bpiWbank k => Sys2Proof.Machine.execBpiWbank k s
  | .bpiRbank => Sys2Proof.Machine.execBpiRbank s
  | .spi2Wctrl ctl => Sys2Proof.Machine.execSpi2Wctrl ctl s
  | .spi2Rctrl => Sys2Proof.Machine.execSpi2Rctrl s
  | .spi2Wdata v => Sys2Proof.Machine.execSpi2Wdata v s
  | .spi2Rdata => Sys2Proof.Machine.execSpi2Rdata s
  | .spidWctrl c => Sys2Proof.Machine.execSpidWctrl c s
  | .spidWfsel v => Sys2Proof.Machine.execSpidWfsel v s
  | .spidRin => Sys2Proof.Machine.execSpidRin s
  | .jtagShift count tms tdi => Sys2Proof.Machine.execJtagShift count tms tdi s
  | .jtagRtdo => Sys2Proof.Machine.execJtagRtdo s
  | .jtagWpresc n => Sys2Proof.Machine.execJtagWpresc n s
  | .jtagRstat => Sys2Proof.Machine.execJtagRstat s
  | .hostPoll k p => Sys2Proof.Machine.execHostPoll k p s
  | .hostCheck k p st => Sys2Proof.Machine.execHostCheck k p st s
  | .hostHalt st => Sys2Proof.Machine.execHostHalt st s
  | .hostBarrier => Sys2Proof.Machine.execHostBarrier s
  | .hostB2b => Sys2Proof.Machine.execHostB2b s

end Sys2Proof.Machine
end

