-- ==== Sys2Proof/Machine/Issue.lean ====
section
/-! DEFINITION. `do OP` of a host procedure (48_host.md rule R409) and the block's performing of a posted write
(20_memory.md rule R81): both reach the same effects as the words of a host program. -/

namespace Sys2Proof.Machine

/-- The effect of a register write when the block performs it; reads and host operations write nothing. Under posted writes that
is later than the host's issue: a `SPI2.WCTRL` then captures `S.txd` as the block has it when it performs the write, DESIGN CHOICE
against R279's "captured when issued" (log entry 31). -/
def writeEffect (i : Instr) (s : State) : Except Fault State :=
  match i with
  | .i2cWpreLo _ v => performI2cWpreLo v s
  | .i2cWpreHi _ v => performI2cWpreHi v s
  | .i2cWctrl _ en => performI2cWctrl en s
  | .i2cWrite b d sta sto => performI2cWrite b d sta sto s
  | .i2cRead b sta sto nack => performI2cRead b sta sto nack s
  | .i2cStop b => performI2cStop b s
  | .bpiCmd cmd => performBpiCmd cmd s
  | .bpiWbank k => performBpiWbank k s
  | .spi2Wctrl ctl => performSpi2Wctrl ctl s
  | .spi2Wdata v => performSpi2Wdata v s
  | .spidWctrl c => performSpidWctrl c s
  | .spidWfsel v => performSpidWfsel v s
  | .jtagShift count tms tdi => performJtagShift count tms tdi s
  | .jtagWpresc n => performJtagWpresc n s
  | .i2cRpreLo _ | .i2cRpreHi _ | .i2cRctrl _ | .i2cRstat _ | .i2cRdata _ | .bpiRdata | .bpiRbank
  | .spi2Rctrl | .spi2Rdata | .spidRin | .jtagRtdo | .jtagRstat
  | .hostPoll _ _ | .hostCheck _ _ _ | .hostHalt _ | .hostBarrier | .hostB2b => .ok s

/-- The result of a register read when the block performs it; the other operations read nothing. -/
def readEffect (i : Instr) (s : State) : Except Fault (RegVal × State) :=
  match i with
  | .i2cRpreLo _ => readI2cPreLo s
  | .i2cRpreHi _ => readI2cPreHi s
  | .i2cRctrl _ => readI2cCtrl s
  | .i2cRstat b => readI2cStat b s
  | .i2cRdata _ => readI2cData s
  | .bpiRdata => readBpiData s
  | .bpiRbank => readBpiBank s
  | .spi2Rctrl => readSpi2Ctrl s
  | .spi2Rdata => readSpi2Data s
  | .spidRin => readSpidIn s
  | .jtagRtdo => readJtagTdo s
  | .jtagRstat => readJtagStat s
  | .i2cWpreLo _ _ | .i2cWpreHi _ _ | .i2cWctrl _ _ | .i2cWrite _ _ _ _ | .i2cRead _ _ _ _ | .i2cStop _
  | .bpiCmd _ | .bpiWbank _ | .spi2Wctrl _ | .spi2Wdata _ | .spidWctrl _ | .spidWfsel _
  | .jtagShift _ _ _ | .jtagWpresc _
  | .hostPoll _ _ | .hostCheck _ _ _ | .hostHalt _ | .hostBarrier | .hostB2b => .ok (0, s)

/-- Issue one block operation outside a host program: the operation of R401 without `H.pc` (R409). The host operations are not
block operations and have no such form. -/
def issue (i : Instr) (s : State) : Except Fault State :=
  if i.isWrite then issueWrite i (writeEffect i) s
  else if i.isRead then issueRead i (readEffect i) s
  else .ok s

/-- The block may perform this posted write before the `earlier` ones: none of them writes the same register (R81), the write a
fence orders before it is done (R82), and it has room (R221; that a posted command waits for its place too is a DESIGN CHOICE, log
entry 6). -/
def postedReady (w : PostedWrite) (earlier : List PostedWrite) (s : State) : Bool :=
  earlier.all (fun e => !sameRegister s.cfg e.instr w.instr) &&
  (match w.after with | none => true | some n => !s.path.pending n) && hasRoom w.instr s

/-- The posted write at position `k` can be performed now, also after the run of its host has ended (a DESIGN CHOICE, log entry 20). -/
def busEnabled (k : Nat) (s : State) : Bool :=
  match s.path.posted[k]? with
  | none => false
  | some w => postedReady w (s.path.posted.take k) s

/-- Remove the posted write at position `k`. -/
def State.dropPosted (s : State) (k : Nat) : State :=
  { s with path := { s.path with posted := s.path.posted.eraseIdx k } }

/-- The block performs the posted write at position `k` (R81). A write that faults by its own rule faults here, when it is
performed, with `H.pc` past its word already: R401's "leaves `H.pc` at the faulting word" does not speak of posted writes, DESIGN
CHOICE (log entry 32). -/
def busStep (k : Nat) (s : State) : Except Fault State :=
  match s.path.posted[k]? with
  | none => .ok s
  | some w => mapOk (fun t => t.recordWrite w.instr) (writeEffect w.instr (s.dropPosted k))

end Sys2Proof.Machine
end

