-- ==== Sys2Proof/Machine/Control.lean ====
section
/-! DEFINITION. The control of a driver call (41_burst.md): its control stack and status, burst flags and burst state, and the
bounded poll (48_host.md R403). The abort path of 60_exceptions.md R424 is `Micro.onFail`. -/

namespace Sys2Proof.Machine

/-! ## The control stack and the call's status -/

/-- Change the driver-mode control. -/
def State.setDrv (s : State) (d : Driver) : State := { s with host := { s.host with drv := d } }

/-- Put entries on top of the control stack. -/
def State.push (s : State) (ms : List Micro) : State :=
  s.setDrv { s.host.drv with stack := ms ++ s.host.drv.stack }

/-- The call's status so far becomes `st`. -/
def State.setStatus (s : State) (st : Status) : State := s.setDrv { s.host.drv with status := st }

/-- Store one unit at a position of the destination buffer; a longer position lengthens it. -/
def storeAt (l : List Half) (pos : Nat) (v : Half) : List Half :=
  if pos < l.length then l.set pos v else l ++ List.replicate (pos - l.length) 0 ++ [v]

/-- `dest[pos] <- v`. -/
def State.store (s : State) (pos : Nat) (v : Half) : State :=
  s.setDrv { s.host.drv with buf := storeAt s.host.drv.buf pos v }

/-- Unit `pos` of the payload. -/
def State.unitAt (s : State) (pos : Nat) : Half := s.host.drv.buf[pos]?.getD 0

/-- Byte `pos` of the payload. -/
def State.payloadByte (s : State) (pos : Nat) : Byte := (s.unitAt pos).setWidth 8

/-! ## Burst flags (R102) -/

/-- The mask of a list of bit positions. -/
def bitMask (ks : List Nat) : BitVec 32 := ks.foldl (fun m k => m ||| BitVec.ofNat 32 (2 ^ k)) 0

/-- Every bit a flag of R102 uses; the others are reserved. -/
def usedFlagBits (f : FlagBits) : List Nat := f.positions

/-- A reserved flag bit is set (R102, R121). -/
def reservedSet (c : Config) (flags : BitVec 32) : Bool :=
  decide (flags &&& ~~~(bitMask (usedFlagBits c.flagBits)) ≠ 0)

/-- A flag outside the allowed ones is set. -/
def foreignSet (flags : BitVec 32) (allowed : List Nat) : Bool := decide (flags &&& ~~~(bitMask allowed) ≠ 0)

/-- The field `JSTATE` (R102). -/
def jstateCode (c : Config) (flags : BitVec 32) : Nat := field flags.toNat c.flagBits.jstateLo 3

/-- The tracked state of a `JSTATE` value (R345); 6 and 7 name none. -/
def jtagStateOf : Nat → Option JtagState
  | 0 => some .invalid
  | 1 => some .idle
  | 2 => some .shiftDr
  | 3 => some .shiftIr
  | 4 => some .exit
  | 5 => some .reset
  | _ => none

/-- The burst kind of a header's type (R101). -/
def kindOf (type : BitVec 32) : Option BurstKind :=
  match type.toNat with
  | 0 => some .read
  | 1 => some .write
  | 2 => some .stateChange
  | 3 => some .commandExec
  | _ => none

/-! ## Controllers and burst state (R66, R120) -/

/-- The unit behind a controller. -/
def Controller.unit : Controller → UnitId
  | .i2cBank _ => .i2c
  | .i2cCore => .i2c
  | .bpi => .bpi
  | .spi2 => .spi2
  | .spid => .spid
  | .jtag => .jtag

/-- `H.burst[c]`; the bank views and the core share one (R120). -/
def HostAgent.burst (h : HostAgent) : Controller → BurstState
  | .i2cBank _ => h.burstI2c
  | .i2cCore => h.burstI2c
  | .bpi => h.burstBpi
  | .spi2 => h.burstSpi2
  | .spid => h.burstSpid
  | .jtag => h.burstJtag

/-- `H.burst[c] <- b`. -/
def State.setBurst (s : State) (c : Controller) (b : BurstState) : State :=
  { s with host :=
    match c with
    | .i2cBank _ => { s.host with burstI2c := b }
    | .i2cCore => { s.host with burstI2c := b }
    | .bpi => { s.host with burstBpi := b }
    | .spi2 => { s.host with burstSpi2 := b }
    | .spid => { s.host with burstSpid := b }
    | .jtag => { s.host with burstJtag := b } }

/-- The open burst of a controller; reading it with none open faults (R66, R132). -/
def openBurst (c : Controller) (s : State) : Except Fault BurstState :=
  if (s.host.burst c).isOpen then .ok (s.host.burst c) else .error .burstNotOpen

/-- Continue with the open burst of a controller. -/
def withBurst (c : Controller) (s : State) (f : BurstState → Except Fault State) : Except Fault State :=
  match openBurst c s with
  | .error e => .error e
  | .ok b => f b

/-- `areBurstFlagsSet(mask)` of an open burst (R132): every bit of the mask is set. -/
def flagsSet (b : BurstState) (mask : BitVec 32) : Bool := decide (b.flags &&& mask = mask)

/-- `areBurstFlagsSet` of one flag (R132); a position outside the flags word is never set (log entry 43). -/
def flagSet (b : BurstState) (k : Nat) : Bool := decide (k < 32) && flagsSet b (bitMask [k])

/-- `is_first_shot` and `is_last_shot` of the open burst (R125, R127, R130). -/
def State.setShot (s : State) (c : Controller) (first last : Bool) : State :=
  s.setBurst c { s.host.burst c with isFirst := first, isLast := last }

/-- A BPI burst has no `addr`: R126 rejects it, whatever its kind. -/
def missingAddr (s : State) : Bool := decide (s.host.drv.ctl = .bpi) && s.host.drv.addr.isNone

/-! ## Shots (R123, R124) -/

/-- `N(c, hdr)`: JTAG counts bits (R123, R349). The product is exact: R349 calls it a number of bits, while R8 makes arithmetic on a
`u32` modulo 2^32 (DESIGN CHOICE, log entry 39). -/
def unitCount (c : Config) (ctl : Controller) (hdr : BurstHeader) : Nat :=
  match ctl with
  | .jtag => if hdr.flags.getLsbD c.flagBits.unitBytes then 8 * hdr.length.toNat else hdr.length.toNat
  | _ => hdr.length.toNat

/-- The largest write shot (R123). -/
def maxWriteShot (c : Config) (ctl : Controller) : Nat :=
  match ctl with
  | .jtag => 8 * (c.sizes .jtag).maxWrite
  | _ => (c.sizes ctl.unit).maxWrite

/-- The largest read shot (R123); `Config.sizes` holds its bound (log entry 36). -/
def maxReadShot (c : Config) (ctl : Controller) : Nat :=
  match ctl with
  | .jtag => 8 * (c.sizes .jtag).maxRead
  | _ => (c.sizes ctl.unit).maxRead

/-- `S = ceil(N / M)` (R124). -/
def shotCount (n m : Nat) : Nat := (n + m - 1) / m

/-- The units of shot `k` (R124). -/
def shotSize (n m k : Nat) : Nat := min ((k + 1) * m) n - k * m

/-- `N` of the burst that runs. -/
def State.burstUnits (s : State) : Nat := unitCount s.cfg s.host.drv.ctl s.host.drv.hdr

/-- Shot `k` of the write burst that runs: its first unit and its size. -/
def State.writeShotAt (s : State) (k : Nat) : Nat × Nat :=
  let m := maxWriteShot s.cfg s.host.drv.ctl
  (k * m, shotSize s.burstUnits m k)

/-- Shot `k` of the read burst that runs: its first unit and its size. -/
def State.readShotAt (s : State) (k : Nat) : Nat × Nat :=
  let m := maxReadShot s.cfg s.host.drv.ctl
  (k * m, shotSize s.burstUnits m k)

/-! ## Polls (R403) -/

/-- `poll i until result[bit] = pol`. -/
def pollOps (i : Instr) (bit : Nat) (pol bounded : Bool) : List Micro := [.op i, .run (.pollTest i bit pol bounded)]

/-- One test of a poll (R403), of the result of the read before it: at a failed test of a bounded poll the bound may have
expired. -/
def runPollTest (i : Instr) (bit : Nat) (pol bounded : Bool) (s : State) : Except Fault State :=
  .ok (if s.host.last.getLsbD bit = pol then s
    else
      let r := if bounded then drawBit .pollExpired s else (false, s)
      if r.1 then r.2.setStatus .timeout else r.2.push (pollOps i bit pol bounded))

end Sys2Proof.Machine
end

