-- ==== Sys2Proof/Machine/DriverBpi.lean ====
section
/-! DEFINITION. The host procedures of the BPI controller (43_bpi.md part 2): R234 to R242. -/

namespace Sys2Proof.Machine

/-- `H.bpi.selected_bank <- k` (R237, R241, R242). -/
def State.setBank (s : State) (k : Byte) : State := { s with host := { s.host with selectedBank := k } }

/-- `H.bpi.cursor <- a` (R126). -/
def State.setCursorAt (s : State) (a : Nat) : State :=
  { s with host := { s.host with cursor := a, cursorKnown := true } }

/-- `bank(addr)` (R236). -/
def flashBank (c : Config) (a : Nat) : Nat := (a / (c.bpiAddressMask.toNat + 1)) &&& c.bpiBankMask

/-- `inbank(addr)` (R236). -/
def inBank (c : Config) (a : Nat) : BitVec 24 := BitVec.ofNat 24 a &&& c.bpiAddressMask

/-- The address check of R236 and R126: an address is given, its bank exists, and the last word is in the same bank.
The flat address is a number of no width, so `addr + N - 1` never wraps (DESIGN CHOICE, log entry 42). -/
def flashRangeOk (c : Config) (addr : Option Nat) (n : Nat) : Bool :=
  match addr with
  | none => false
  | some a => decide (flashBank c a < c.bpiBankCount) && decide (flashBank c (a + n - 1) = flashBank c a)

/-- The command `LOAD_ADDR | a` (R105). -/
def loadAddrCmd (a : BitVec 24) : RegVal := 0x04000000#32 ||| a.setWidth 32

/-- `do BPI.CMD(c)`. -/
def bpiOp (c : RegVal) : Micro := .op (.bpiCmd c)

/-- `handle_pre_burst_flags` (R241). A BPI burst without `addr` is rejected (R126), a StateChange burst among them; that this is
here, where R241 checks the address of a Read or Write, is a DESIGN CHOICE (log entry 18). -/
def bpiPreFlags (s : State) : Except Fault State :=
  let f := s.cfg.flagBits
  let hdr := s.host.drv.hdr
  let assertCs := if hdr.flags.getLsbD f.csAssert then [bpiOp 0x01000000#32] else []
  let moves := kindOf hdr.type = some .read ∨ kindOf hdr.type = some .write
  .ok (if foreignSet hdr.flags [f.csAssert, f.csDeassert] then s.setStatus .invalidArgument
    else if missingAddr s then s.setStatus .invalidArgument
    else if moves ∧ flashRangeOk s.cfg s.host.drv.addr s.burstUnits = false then s.setStatus .invalidArgument
    else if moves then
      s.push (.run (.bpiSelect (BitVec.ofNat 8 (flashBank s.cfg (s.host.drv.addr.getD 0)))) :: assertCs)
    else s.push assertCs)

/-- `handle_post_burst_flags` (R241). -/
def bpiPostFlags (s : State) : Except Fault State :=
  .ok (if s.host.drv.hdr.flags.getLsbD s.cfg.flagBits.csDeassert then s.push [bpiOp 0x02000000#32, .run .bpiForget]
    else s)

/-- `H.bpi.selected_bank <- 0xFF` (R241, R242). -/
def runBpiForget (s : State) : Except Fault State := .ok (s.setBank 0xFF)

/-- `select_bank(k)` (R237): every write-and-wait cycle is issued, whatever the first one's outcome. -/
def runBpiSelect (k : Byte) (s : State) : Except Fault State :=
  .ok (if k = s.host.selectedBank then s
    else (s.setBank 0xFF).push
      ((List.replicate Config.bpiBankWrites (.op (.bpiWbank k) :: pollOps .bpiRbank 0 false true)).flatten ++
        [.run (.bpiVerify k)]))

/-- The read-back of a bank select, with `BPI_BANK_VERIFY` (R237). -/
def runBpiVerify (k : Byte) (s : State) : Except Fault State :=
  .ok (if s.cfg.bpiBankVerify then s.push [.op .bpiRbank, .run (.bpiSelected k)] else s.setBank k)

/-- The verified bank must be the one asked for (R237). -/
def runBpiSelected (k : Byte) (s : State) : Except Fault State :=
  .ok (if s.host.last.extractLsb' 8 8 ≠ k then s.setStatus .deviceIO else s.setBank k)

/-- `H.bpi.cursor <- addr`, after the pre-flag handler (R126). -/
def bpiSetCursor (s : State) : Except Fault State :=
  .ok (match s.host.drv.addr with
    | none => s.setStatus .invalidArgument
    | some a => s.setCursorAt a)

/-- The cursor of a shot. R126 has written it; before that its value is unknown (R65), and the shot takes any value, which then is
the cursor (DESIGN CHOICE, log entry 44). -/
def bpiCursor (s : State) : Nat × State :=
  if s.host.cursorKnown then (s.host.cursor, s)
  else
    let r := draw .cursorUnknown s
    (r.1.toNat, r.2.setCursorAt r.1.toNat)

/-- `H.bpi.cursor <- H.bpi.cursor + n` (R126), which never wraps (DESIGN CHOICE, log entry 42). -/
def runBpiAdvance (n : Nat) (s : State) : Except Fault State :=
  let c := bpiCursor s
  .ok (c.2.setCursorAt (c.1 + n))

/-- The write commands of the words from position `pos` on: the first without, the others with `INC` (R239). -/
def writeCommands (s : State) (pos n : Nat) : List Micro :=
  (List.range n).map fun i =>
    bpiOp ((if i = 0 then 0x40000000#32 else 0xC0000000#32) ||| (s.unitAt (pos + i)).setWidth 32)

/-- `write_shot` (R239). -/
def bpiWriteShot (k : Nat) (s : State) : Except Fault State :=
  let c := bpiCursor s
  let r := s.writeShotAt k
  .ok (c.2.push (bpiOp (loadAddrCmd (inBank s.cfg c.1)) :: (writeCommands s r.1 r.2 ++ [.run (.bpiAdvance r.2)])))

/-- `request_read` (R240): the cursor moves on whatever `read_commands` returns. -/
def bpiRequestRead (k : Nat) (s : State) : Except Fault State :=
  let c := bpiCursor s
  let n := (s.readShotAt k).2
  .ok (c.2.push [.run (.bpiReadCommands (inBank s.cfg c.1) n), .always (.bpiAdvance n)])

/-- The read commands of `L` words after `LOAD_ADDR` (R234, R235). -/
def readCommands (c : Config) (l : Nat) : List RegVal :=
  c.bpiReadCommand ::
    ((if 1 < l then [c.bpiReadIncCommand] else []) ++
      (if l < 5 then List.replicate (l - 2) c.bpiReadIncCommand
       else [c.bpiReadIncCommand, c.bpiReadBurstIncCommand ||| BitVec.ofNat 32 (l - 4)]))

/-- `read_commands(a, L)` (R234). -/
def runBpiReadCommands (a : BitVec 24) (l : Nat) (s : State) : Except Fault State :=
  .ok (if 5 ≤ l ∧ 2 ^ s.cfg.bpiBurstCountBits ≤ l - 4 then s.setStatus .invalidArgument
    else s.push (bpiOp (loadAddrCmd a) :: (readCommands s.cfg l).map bpiOp))

/-- `read_shot` (R240): one poll per word. The words reach the destination when the shot has succeeded: the units of a shot that
fails are unchanged (R127). -/
def bpiReadShot (k : Nat) (s : State) : Except Fault State :=
  let r := s.readShotAt k
  .ok ((s.setDrv { s.host.drv with words := [] }).push
    ((List.replicate r.2 (pollOps .bpiRdata 16 false true ++ [.run .bpiTake])).flatten ++ [.run (.bpiStore r.1)]))

/-- The shot's next word, `H.last[BPI_WORD_BITS-1:0]` (R240). -/
def runBpiTake (s : State) : Except Fault State :=
  .ok (s.setDrv { s.host.drv with words := s.host.drv.words ++ [flashWordOf s.cfg (s.host.last.setWidth 16)] })

/-- `dest[pos], dest[pos + 1], … <- ` these units. -/
def storeWords (pos : Nat) : List Half → State → State
  | [], s => s
  | w :: rest, s => storeWords (pos + 1) rest (s.store pos w)

/-- `dest[0..n-1] <- ` the shot's words (R127, R240). -/
def runBpiStore (pos : Nat) (s : State) : Except Fault State := .ok (storeWords pos s.host.drv.words s)

/-- `wait_ready`, also `wait_for_write_queue_empty` (R238). -/
def bpiWaitReady (s : State) : Except Fault State :=
  .ok (s.push [bpiOp 0x08000000#32, .op .bpiRdata, .run (.bpiReadyTest false)])

/-- The log entries of a data-register read (R238, R430). Where both bits are set R238 does not say whether that is one entry or two,
nor their order: two, FIFO_FULL first, DESIGN CHOICE (log entry 35). -/
def logFifo (r : RegVal) (s : State) : State :=
  let t := if r.getLsbD 17 then s.record (.log .fifoFull) else s
  if r.getLsbD 18 then t.record (.log .fifoError) else t

/-- One round of `wait_ready` (R238): a ready word ends it; at an expiry the status says whether any word came. -/
def runBpiReadyTest (seen : Bool) (s : State) : Except Fault State :=
  let r := s.host.last
  let t := logFifo r s
  let seen' := seen || !r.getLsbD 16
  .ok (if !r.getLsbD 16 && r.getLsbD Config.bpiReadyBit then t
    else
      let x := drawBit .pollExpired t
      if x.1 then x.2.setStatus (if seen' then .timeout else .deviceIO)
      else x.2.push [.op .bpiRdata, .run (.bpiReadyTest seen')])

/-- `burst_aborted` (R242): no register access. -/
def bpiAborted (s : State) : Except Fault State := .ok (s.setBank 0xFF)

/-- `cleanup` (R242). -/
def bpiCleanup (s : State) : Except Fault State := .ok (s.push [bpiOp 0x02000000#32, .run .bpiForget])

end Sys2Proof.Machine
end

