-- ==== Sys2Proof/Machine/DriverI2c.lean ====
section
/-! DEFINITION. The host procedures of the I2C controller (42_i2c.md part 2): activation R180 to R183, the callbacks R184 to
R191 and `wait_tip` R197. Each definition is one point of a procedure between two block operations. -/

namespace Sys2Proof.Machine

/-- `H.i2c.active_bus <- b` (R181, R191). -/
def State.setActive (s : State) (b : Option Nat) : State := { s with host := { s.host with activeBus := b } }

/-- `wait_tip(b)` (R197). -/
def waitTip (b : Nat) : List Micro := pollOps (.i2cRstat b) 0 false true

/-- `do I2C.STOP; wait_tip` (R182, R189, R190, R191). -/
def stopAndWait (b : Nat) : List Micro := .op (.i2cStop b) :: waitTip b

/-- `activate(b)` (R181): nothing when the bank is active already. -/
def runI2cActivate (b : Nat) (s : State) : Except Fault State :=
  .ok (if s.cfg.i2cNumBanks ≤ b then s.setStatus .invalidArgument
    else if s.host.activeBus = some b then s
    else s.push [.op (.i2cWctrl b false), .run (.i2cSelect b), .run (.i2cProgram b), .run (.i2cEnable b),
      .onFail .i2cForget])

/-- `H.i2c.active_bus <- b` after the disable (R181). -/
def runI2cSelect (b : Nat) (s : State) : Except Fault State := .ok (s.setActive (some b))

/-- `H.i2c.active_bus <- none` (R181, R191). -/
def runI2cForget (s : State) : Except Fault State := .ok (s.setActive none)

/-- The bus frequency of bank `b` (R67); 0, which `bus2core` rejects, where the configuration has no such bank. The
entry at position `b` is bank `b` (log entry 38). -/
def bankFrequency (c : Config) (b : Nat) : Nat :=
  match c.i2cBanks[b]? with
  | some k => k.busFrequency
  | none => 0

/-- `program_prescaler(b, f)` up to the first read-back (R180). -/
def runI2cProgram (b : Nat) (s : State) : Except Fault State :=
  .ok (match bus2core (bankFrequency s.cfg b) s.cfg.i2cFwClock with
    | none => s.setStatus .invalidArgument
    | some p =>
      let v := BitVec.ofNat 16 p
      s.push [.op (.i2cWpreLo b (v.extractLsb' 0 8)), .op (.i2cWpreHi b (v.extractLsb' 8 8)), .op (.i2cRpreLo b),
        .run (.i2cReadHi b v)])

/-- `lo` has been read; read `hi` (R180). -/
def runI2cReadHi (b : Nat) (p : Half) (s : State) : Except Fault State :=
  .ok (s.push [.op (.i2cRpreHi b), .run (.i2cVerify (s.host.last.setWidth 8) p)])

/-- The read-back must be the prescaler written (R180). -/
def runI2cVerify (lo : Byte) (p : Half) (s : State) : Except Fault State :=
  .ok (if lo ≠ p.extractLsb' 0 8 ∨ s.host.last.setWidth 8 ≠ p.extractLsb' 8 8 then s.setStatus .deviceIO else s)

/-- `enable(b)` (R182). -/
def runI2cEnable (b : Nat) (s : State) : Except Fault State :=
  .ok (s.push [.op (.i2cWctrl b true), .op (.i2cRstat b), .run (.i2cEnableTest b)])

/-- A bus found held is stopped (R182). -/
def runI2cEnableTest (b : Nat) (s : State) : Except Fault State :=
  .ok (if s.host.last.getLsbD 1 then s.push (stopAndWait b) else s)

/-- `handle_pre_burst_flags` (R188). -/
def i2cPreFlags (s : State) : Except Fault State :=
  let f := s.cfg.flagBits
  let hdr := s.host.drv.hdr
  .ok (if s.host.activeBus.isNone then s.setStatus .invalidState
    else if foreignSet hdr.flags [f.start, f.stop, f.nack, f.ackPolling] then s.setStatus .invalidArgument
    else if kindOf hdr.type = some .write ∧ hdr.flags.getLsbD f.nack then s.setStatus .invalidArgument
    else if kindOf hdr.type = some .stateChange ∧ hdr.flags.getLsbD f.start then s.setStatus .invalidArgument
    else s)

/-- `handle_post_burst_flags` (R188, R189): a StateChange with STOP stops the active bus, if there is one. -/
def i2cPostFlags (s : State) : Except Fault State :=
  .ok (match s.host.activeBus with
    | none => s
    | some b =>
      if kindOf s.host.drv.hdr.type = some .stateChange ∧ s.host.drv.hdr.flags.getLsbD s.cfg.flagBits.stop then
        s.push (stopAndWait b)
      else s)

/-- Continue with the active bus, which R188 has checked. -/
def withActive (s : State) (f : Nat → Except Fault State) : Except Fault State :=
  match s.host.activeBus with
  | none => .ok (s.setStatus .invalidState)
  | some b => f b

/-- `write_shot` (R184). -/
def i2cWriteShot (k : Nat) (s : State) : Except Fault State :=
  withBurst s.host.drv.ctl s fun u => withActive s fun b =>
    .ok (s.push (.op (.i2cWrite b (s.payloadByte (s.writeShotAt k).1)
        (u.isFirst && flagSet u s.cfg.flagBits.start) (u.isLast && flagSet u s.cfg.flagBits.stop)) ::
      (waitTip b ++ [.run .i2cCheckAck])))

/-- The acknowledge of the status read that ended the poll (R184, R187, R430). -/
def runI2cCheckAck (s : State) : Except Fault State :=
  if !s.host.last.getLsbD 2 then .ok s
  else withBurst s.host.drv.ctl s fun u =>
    .ok ((if flagSet u s.cfg.flagBits.ackPolling then s else s.record (.log .noAck)).setStatus .noAck)

/-- `request_read` (R185). -/
def i2cRequestRead (s : State) : Except Fault State :=
  withBurst s.host.drv.ctl s fun u => withActive s fun b =>
    .ok (s.push [.op (.i2cRead b (u.isFirst && flagSet u s.cfg.flagBits.start)
      (u.isLast && flagSet u s.cfg.flagBits.stop) (u.isLast && flagSet u s.cfg.flagBits.nack))])

/-- `read_shot` (R186). -/
def i2cReadShot (k : Nat) (s : State) : Except Fault State :=
  withActive s fun b =>
    .ok (s.push (waitTip b ++ [.op (.i2cRdata b), .run (.i2cStore (s.readShotAt k).1)]))

/-- `dest[0] <- result[7:0]` (R186). -/
def runI2cStore (pos : Nat) (s : State) : Except Fault State :=
  .ok (s.store pos (BitVec.setWidth 16 (s.host.last.extractLsb' 0 8)))

/-- `burst_aborted` (R190). -/
def i2cAborted (s : State) : Except Fault State :=
  .ok (match s.host.activeBus with
    | none => s
    | some b => s.push [.op (.i2cRstat b), .run (.i2cAbortTest b)])

/-- An idle core with the bus still held: the spec leaves the STOP open (R190). -/
def runI2cAbortTest (b : Nat) (s : State) : Except Fault State :=
  .ok (if !s.host.last.getLsbD 0 && s.host.last.getLsbD 1 then
      let r := drawBit .abortChoice s
      if r.1 then r.2.push (stopAndWait b) else r.2
    else s)

/-- `cleanup` (R191). -/
def i2cCleanup (s : State) : Except Fault State :=
  .ok (match s.host.activeBus with
    | none => s
    | some b => s.push [.op (.i2cRstat b), .run (.i2cCleanupTip b), .op (.i2cRstat b), .run (.i2cCleanupBusy b),
        .op (.i2cWctrl b false), .run .i2cForget])

/-- A transfer in progress is waited for (R191). -/
def runI2cCleanupTip (b : Nat) (s : State) : Except Fault State :=
  .ok (if s.host.last.getLsbD 0 then s.push (waitTip b) else s)

/-- A held bus is stopped (R191). -/
def runI2cCleanupBusy (b : Nat) (s : State) : Except Fault State :=
  .ok (if s.host.last.getLsbD 1 then s.push (stopAndWait b) else s)

end Sys2Proof.Machine
end

