-- ==== Sys2Proof/Machine/DriverJtag.lean ====
section
/-! DEFINITION. The host procedures of the JTAG controller (46_jtag.md parts 2 and 3): R347 to R358. -/

namespace Sys2Proof.Machine

/-- `H.jtag.state <- t` (R347, R355, R358). -/
def State.setTracked (s : State) (t : JtagState) : State := { s with host := { s.host with jtagState := t } }

/-- `H.jtag.scratch <- x` (R357). -/
def State.setScratch (s : State) (x : JtagScratch) : State := { s with host := { s.host with scratch := x } }

/-! ## Bit streams -/

/-- The number whose bit `j` is element `j` of the list (R348). -/
def bitsToNat : List Bool → Nat
  | [] => 0
  | b :: rest => b.toNat + 2 * bitsToNat rest

/-- The time-ordered TMS bits of a table entry: most significant bit first (R346, R347). -/
def tmsStream (e : TmsEntry) : List Bool := (List.range e.num).map fun j => flagBit e.bits (e.num - 1 - j)

/-- Stream bit `j` of a buffer that starts at byte `off` (R350). -/
def streamBit (buf : List Half) (lsbFirst : Bool) (off j : Nat) : Bool :=
  (buf[off + j / 8]?.getD 0).getLsbD (if lsbFirst then j % 8 else 7 - j % 8)

/-- Stream bits `j` to `j + n - 1`. -/
def streamBits (buf : List Half) (lsbFirst : Bool) (off j n : Nat) : List Bool :=
  (List.range n).map fun i => streamBit buf lsbFirst off (j + i)

/-- A byte of up to eight stream bits, the unused ones 0 (R350). -/
def packByte (lsbFirst : Bool) (bits : List Bool) : Half :=
  BitVec.ofNat 16 (bitsToNat (if lsbFirst then bits else (bits ++ List.replicate (8 - bits.length) false).reverse))

/-- One frame of `send` (R348). After a `Timeout` the frame before may still be in progress (R425, R476); the next call's `JTAG.SHIFT`
then faults as R340 says, although R348 derives that `F_JTAG_BUSY` never arises here (DEDUCED, log entry 40). -/
def frameOps (t d : List Bool) (capture : Bool) : List Micro :=
  .op (.jtagShift t.length (BitVec.ofNat 16 (bitsToNat t)) (BitVec.ofNat 16 (bitsToNat d))) ::
    (pollOps .jtagRstat 0 false true ++ (if capture then [.op .jtagRtdo, .run (.jtagCapture t.length)] else []))

/-- `send(t, d, capture)` (R348): frames of 16 bits, the last one of the rest. -/
def sendOps (t d : List Bool) (capture : Bool) : List Micro :=
  ((List.range ((t.length + 15) / 16)).map fun f =>
    frameOps ((t.drop (16 * f)).take 16) ((d.drop (16 * f)).take 16) capture).flatten

/-- `out <- out ++ [H.last[j] for j < m]` (R348). -/
def runJtagCapture (m : Nat) (s : State) : Except Fault State :=
  .ok (s.setDrv { s.host.drv with bits := s.host.drv.bits ++ (List.range m).map fun j => s.host.last.getLsbD j })

/-! ## Tracked states -/

/-- `set_state(t)` (R347). -/
def runJtagSetState (t : JtagState) (s : State) : Except Fault State :=
  .ok (if t = .invalid then s.setStatus .invalidArgument
    else if t = s.host.jtagState then s
    else match s.cfg.jtagTmsTable.find? (fun e => decide (e.src = s.host.jtagState) && decide (e.dst = t)) with
      | none => s.setStatus .invalidArgument
      | some e => s.push (sendOps (tmsStream e) (List.replicate e.num false) false ++
          [.run (.jtagTracked t), .onFail .jtagForget]))

/-- `H.jtag.state <- t` after the transition (R347). -/
def runJtagTracked (t : JtagState) (s : State) : Except Fault State := .ok (s.setTracked t)

/-- `H.jtag.state <- Invalid` (R347, R358). -/
def runJtagForget (s : State) : Except Fault State := .ok (s.setTracked .invalid)

/-! ## Flag handlers -/

/-- The JTAG flags (R358). -/
def jtagFlags (f : FlagBits) : List Nat :=
  [f.unitBytes, f.lsbFirst, f.raw, f.tmsFillOne, f.jstateLo, f.jstateLo + 1, f.jstateLo + 2]

/-- The whole TMS stream of a raw Write's buffer (R349, R357). -/
def rawTms (s : State) : List Bool :=
  let n := s.burstUnits
  streamBits s.host.drv.buf (s.host.drv.hdr.flags.getLsbD s.cfg.flagBits.lsbFirst) ((n + 7) / 8) 0 n

/-- `handle_pre_burst_flags` (R358). -/
def jtagPreFlags (s : State) : Except Fault State :=
  let f := s.cfg.flagBits
  let hdr := s.host.drv.hdr
  .ok (if foreignSet hdr.flags (jtagFlags f) then s.setStatus .invalidArgument
    else match jtagStateOf (jstateCode s.cfg hdr.flags) with
      | none => s.setStatus .invalidArgument
      | some js =>
        if kindOf hdr.type = some .stateChange then s.push [.run (.jtagSetState js)]
        else if hdr.flags.getLsbD f.raw then
          if js ≠ .invalid then s.setStatus .invalidArgument
          else s.setScratch ⟨if kindOf hdr.type = some .write then rawTms s else [], []⟩
        else if js ≠ .shiftDr ∧ js ≠ .shiftIr then s.setStatus .invalidArgument
        else s.push [.run (.jtagSetState js)])

/-- `handle_post_burst_flags` (R355, R358). -/
def jtagPostFlags (s : State) : Except Fault State :=
  .ok (if kindOf s.host.drv.hdr.type = some .stateChange then s
    else if s.host.drv.hdr.flags.getLsbD s.cfg.flagBits.raw then s.setTracked .invalid
    else if s.cfg.jtagExitOnLast then s.setTracked .exit
    else s)

/-! ## Shots -/

/-- The TMS bits of a state-scoped shot of `m` bits (R351, R352): 0, but for the last bit under `JTAG_EXIT_ON_LAST`. -/
def scopedTms (c : Config) (u : BurstState) (m : Nat) : List Bool :=
  List.replicate (m - 1) false ++ List.replicate (min m 1) (c.jtagExitOnLast && u.isLast)

/-- `write_shot` (R351, R353). -/
def jtagWriteShot (k : Nat) (s : State) : Except Fault State :=
  withBurst .jtag s fun u =>
    let r := s.writeShotAt k
    let lsb := s.host.drv.hdr.flags.getLsbD s.cfg.flagBits.lsbFirst
    let d := streamBits s.host.drv.buf lsb 0 r.1 r.2
    let t := if s.host.drv.hdr.flags.getLsbD s.cfg.flagBits.raw then
        streamBits s.host.drv.buf lsb ((s.burstUnits + 7) / 8) r.1 r.2
      else scopedTms s.cfg u r.2
    .ok (s.push (sendOps t d false))

/-- `read_shot` (R352, R354): TDI 0; a raw read keeps its synthesized TMS in the scratch. -/
def jtagReadShot (k : Nat) (s : State) : Except Fault State :=
  withBurst .jtag s fun u =>
    let m := (s.readShotAt k).2
    let raw := s.host.drv.hdr.flags.getLsbD s.cfg.flagBits.raw
    let t := if raw then List.replicate m (s.host.drv.hdr.flags.getLsbD s.cfg.flagBits.tmsFillOne)
      else scopedTms s.cfg u m
    let c := if raw then s.setScratch ⟨s.host.scratch.tms ++ t, s.host.scratch.rd⟩ else s
    .ok ((c.setDrv { c.host.drv with bits := [] }).push
      (sendOps t (List.replicate m false) true ++ [.run (.jtagStore k m)]))

/-- Bytes `i` to `i + n - 1` of a stream go to the destination from byte `pos` on (R350). -/
def storeStream (lsbFirst : Bool) (bits : List Bool) (pos : Nat) : (n i : Nat) → State → State
  | 0, _, s => s
  | n + 1, i, s =>
    storeStream lsbFirst bits pos n (i + 1) (s.store (pos + i) (packByte lsbFirst ((bits.drop (8 * i)).take 8)))

/-- `dest <- out`, packed (R350, R352, R354); a raw read's bits also go to the scratch (R62). -/
def runJtagStore (k m : Nat) (s : State) : Except Fault State :=
  let bits := s.host.drv.bits
  let t := if s.host.drv.hdr.flags.getLsbD s.cfg.flagBits.raw then
      s.setScratch ⟨s.host.scratch.tms, s.host.scratch.rd ++ bits⟩ else s
  .ok (storeStream (s.host.drv.hdr.flags.getLsbD s.cfg.flagBits.lsbFirst) bits ((s.readShotAt k).1 / 8)
    ((m + 7) / 8) 0 t)

/-- `burst_aborted` (R358). -/
def jtagAborted (s : State) : Except Fault State := .ok (s.setTracked .invalid)

/-- `cleanup` (R358). -/
def jtagCleanup (s : State) : Except Fault State := .ok (s.setScratch ⟨[], []⟩)

/-- `jtag_set_frequency(f)` (R356). -/
def runJtagSetFrequency (f : Nat) (s : State) : Except Fault State :=
  .ok (if f = 0 then s.setStatus .invalidArgument
    else s.push [.op (.jtagWpresc (BitVec.ofNat 16 (jtagPrescFor s.cfg f)))])

end Sys2Proof.Machine
end

