-- ==== Sys2Proof/Machine/DriverSpi.lean ====
section
/-! DEFINITION. The host procedures of the SPI-v2 controller (44_spi_v2.md part 2, R281 to R287) and of the SPI-dual controller
(45_spi_dual.md part 2, R305 to R312). -/

namespace Sys2Proof.Machine

/-! ## SPI-v2 -/

/-- `ctlw(cs, rw, valid, n, quad)` (44_spi_v2.md part 2). -/
def ctlw (c : Config) (cs rw valid : Bool) (n : Nat) (quad : Bool) : Spi2Ctl where
  cs := cs
  rw := rw
  valid := valid
  cntM1 := if valid then BitVec.ofNat 2 (n - 1) else 0
  quad := quad
  dev := c.spi2Device

/-- `do SPI2.WCTRL(ctlw(...))`. -/
def spi2Op (c : Config) (cs rw valid : Bool) (n : Nat) (quad : Bool) : Micro :=
  .op (.spi2Wctrl (ctlw c cs rw valid n quad))

/-- `handle_pre_burst_flags` (R283). -/
def spi2PreFlags (s : State) : Except Fault State :=
  let f := s.cfg.flagBits
  withBurst .spi2 s fun u =>
    .ok (if foreignSet s.host.drv.hdr.flags [f.csAssert, f.csDeassert, f.quadMode] then s.setStatus .invalidArgument
      else if s.host.drv.hdr.flags.getLsbD f.csAssert then
        s.push [spi2Op s.cfg true false false 1 (flagSet u f.quadMode)]
      else s)

/-- `handle_post_burst_flags` (R283). -/
def spi2PostFlags (s : State) : Except Fault State :=
  let f := s.cfg.flagBits
  withBurst .spi2 s fun u =>
    .ok (if s.host.drv.hdr.flags.getLsbD f.csDeassert then
        s.push [spi2Op s.cfg false false false 1 (flagSet u f.quadMode)]
      else s)

/-- The data register of `n` payload bytes from position `pos` (R281). -/
def txWord (s : State) (pos n : Nat) : RegVal :=
  (List.range n).foldl (fun v i => v ||| byteInto (s.payloadByte (pos + i)) i) 0

/-- `write_shot` (R281). -/
def spi2WriteShot (k : Nat) (s : State) : Except Fault State :=
  withBurst .spi2 s fun u =>
    let r := s.writeShotAt k
    .ok (s.push [.op (.spi2Wdata (txWord s r.1 r.2)),
      spi2Op s.cfg true false true r.2 (flagSet u s.cfg.flagBits.quadMode)])

/-- `request_read` (R284). -/
def spi2RequestRead (k : Nat) (s : State) : Except Fault State :=
  withBurst .spi2 s fun u =>
    .ok (s.push [spi2Op s.cfg true true true (s.readShotAt k).2 (flagSet u s.cfg.flagBits.quadMode)])

/-- The unbounded poll for a read entry, then the entry (R282, R287). -/
def spi2Fetch : List Micro := pollOps .spi2Rctrl 16 true false ++ [.op .spi2Rdata]

/-- `read_shot` (R282). -/
def spi2ReadShot (k : Nat) (s : State) : Except Fault State :=
  let r := s.readShotAt k
  .ok (s.push (spi2Fetch ++ [.run (.spi2Store r.1 r.2)]))

/-- Bytes `i` to `i + n - 1` of the entry go to the destination (R282). -/
def storeBytes (v : RegVal) (pos : Nat) : (n i : Nat) → State → State
  | 0, _, s => s
  | n + 1, i, s => storeBytes v pos n (i + 1) (s.store (pos + i) (BitVec.setWidth 16 (byteAt v i)))

/-- `dest[i] <- e[8i+7:8i]` (R282). -/
def runSpi2Store (pos n : Nat) (s : State) : Except Fault State := .ok (storeBytes s.host.last pos n 0 s)

/-- `cleanup` (R285). -/
def spi2Cleanup (s : State) : Except Fault State := .ok (s.push [spi2Op s.cfg false false false 1 false])

/-- `spi2_dummy_read` (R287). -/
def runSpi2DummyRead (s : State) : Except Fault State :=
  .ok (s.push (spi2Op s.cfg false true true 1 false :: (spi2Fetch ++ [.run .spi2DummyDone])))

/-- `S.dummy_done <- 1` (R287). -/
def runSpi2DummyDone (s : State) : Except Fault State := .ok { s with spi2 := { s.spi2 with dummyDone := true } }

/-! ## SPI-dual -/

/-- `do SPID.WCTRL(ctl(sck, cs, dout, oe))` with `cs` as the host caches it (45_spi_dual.md part 2). -/
def spidOp (s : State) (sck : Bool) (dout oe : BitVec 4) : Micro :=
  .op (.spidWctrl ⟨sck, s.host.chipSelected, dout, oe⟩)

/-- One bit of a chip write (R305): data with clock low, raise, hold, lower. -/
def chipWriteBit (s : State) (b : Bool) : List Micro :=
  let d : BitVec 4 := if b then 1 else 0
  [spidOp s false d 1, spidOp s true d 1, spidOp s true d 1, spidOp s false d 1]

/-- Chip write of one byte, most significant bit first (R305). -/
def chipWriteByte (s : State) (x : Byte) : List Micro :=
  ((List.range 8).map fun j => chipWriteBit s (x.getLsbD (7 - j))).flatten

/-- One bit of a chip read (R306): D1 is sampled while the clock is high. -/
def chipReadBit (s : State) : List Micro :=
  [spidOp s false 0 1, spidOp s true 0 1, spidOp s true 0 1, .op .spidRin, .run .spidSampleBit, spidOp s false 0 1]

/-- Chip read of one byte into the destination (R306). -/
def chipReadByte (s : State) (pos : Nat) : List Micro :=
  (List.replicate 8 (chipReadBit s)).flatten ++ [.run (.spidStoreByte pos)]

/-- The lines of clock `k` of a data write (R307): `x0` on D1:D0, `x1` on D3:D2, the higher bit of a pair on the higher line. -/
def pairLines (x0 x1 : Byte) (k : Nat) : BitVec 4 :=
  (x0.extractLsb' (6 - 2 * k) 2).setWidth 4 ||| ((x1.extractLsb' (6 - 2 * k) 2).setWidth 4) <<< 2

/-- Data write of two bytes (R307). -/
def dataWritePair (s : State) (x0 x1 : Byte) : List Micro :=
  ((List.range 4).map fun k => [spidOp s false (pairLines x0 x1 k) 0xF, spidOp s true (pairLines x0 x1 k) 0xF]).flatten

/-- Data read of two bytes into the destination (R308). -/
def dataReadPair (s : State) (pos : Nat) : List Micro :=
  (List.replicate 4 [spidOp s false 0 0, spidOp s true 0 0, .op .spidRin, .run .spidSamplePair]).flatten ++
    [.run (.spidStorePair pos)]

/-- `x[i] <- (do SPID.RIN)[1]`, most significant bit first (R306). -/
def runSpidSampleBit (s : State) : Except Fault State :=
  .ok (s.setDrv { s.host.drv with
    acc0 := (s.host.drv.acc0 <<< 1) ||| (s.host.last.extractLsb' 1 1).setWidth 8 })

/-- The byte of a chip read (R306). -/
def runSpidStoreByte (pos : Nat) (s : State) : Except Fault State := .ok (s.store pos (s.host.drv.acc0.setWidth 16))

/-- Two bits of each byte of a data read, most significant pair first (R308). -/
def runSpidSamplePair (s : State) : Except Fault State :=
  .ok (s.setDrv { s.host.drv with
    acc0 := (s.host.drv.acc0 <<< 2) ||| (s.host.last.extractLsb' 0 2).setWidth 8
    acc1 := (s.host.drv.acc1 <<< 2) ||| (s.host.last.extractLsb' 2 2).setWidth 8 })

/-- The two bytes of a data read (R308). -/
def runSpidStorePair (pos : Nat) (s : State) : Except Fault State :=
  .ok ((s.store pos (s.host.drv.acc0.setWidth 16)).store (pos + 1) (s.host.drv.acc1.setWidth 16))

/-- `set_cs(on)` (R309): every repeat is issued; nothing when the cache says so already. -/
def runSpidSetCs (on : Bool) (s : State) : Except Fault State :=
  .ok (if on = s.host.chipSelected then s
    else s.push (List.replicate Config.spidFselRepeat (.op (.spidWfsel (if on then s.cfg.spidFselValue else 0))) ++
      (List.replicate Config.spidCtrlRepeat (.op (.spidWctrl ⟨false, on, 0, 1⟩)) ++ [.run (.spidCsDone on)])))

/-- `H.spid.chip_selected <- on` (R309). -/
def runSpidCsDone (on : Bool) (s : State) : Except Fault State :=
  .ok { s with host := { s.host with chipSelected := on } }

/-- `spid_check(hdr)` (R310). -/
def spidFlagsOk (c : Config) (hdr : BurstHeader) (u : BurstState) : Bool :=
  let f := c.flagBits
  !foreignSet hdr.flags [f.csAssert, f.csDeassert, f.quadMode, f.dataAccess] &&
  (flagSet u f.quadMode == flagSet u f.dataAccess) &&
  !((decide (kindOf hdr.type = some .read) || decide (kindOf hdr.type = some .write)) &&
    flagSet u f.dataAccess && hdr.length.getLsbD 0)

/-- Go on with `f` where `spid_check` passes (R310, R311). -/
def withSpidCheck (s : State) (f : BurstState → Except Fault State) : Except Fault State :=
  withBurst .spid s fun u =>
    if spidFlagsOk s.cfg s.host.drv.hdr u then f u else .ok (s.setStatus .invalidArgument)

/-- `handle_pre_burst_flags` (R311). -/
def spidPreFlags (s : State) : Except Fault State :=
  withSpidCheck s fun _ =>
    .ok (if s.host.drv.hdr.flags.getLsbD s.cfg.flagBits.csAssert then s.push [.run (.spidSetCs true)] else s)

/-- `handle_post_burst_flags` (R311). -/
def spidPostFlags (s : State) : Except Fault State :=
  .ok (if s.host.drv.hdr.flags.getLsbD s.cfg.flagBits.csDeassert then s.push [.run (.spidSetCs false)] else s)

/-- `write_shot` (R311). -/
def spidWriteShot (k : Nat) (s : State) : Except Fault State :=
  withSpidCheck s fun u =>
    let r := s.writeShotAt k
    .ok (s.push (if flagSet u s.cfg.flagBits.dataAccess then
        ((List.range (r.2 / 2)).map fun j =>
          dataWritePair s (s.payloadByte (r.1 + 2 * j)) (s.payloadByte (r.1 + 2 * j + 1))).flatten
      else ((List.range r.2).map fun j => chipWriteByte s (s.payloadByte (r.1 + j))).flatten))

/-- `read_shot` (R311). -/
def spidReadShot (k : Nat) (s : State) : Except Fault State :=
  withSpidCheck s fun u =>
    let r := s.readShotAt k
    .ok (s.push (if flagSet u s.cfg.flagBits.dataAccess then
        ((List.range (r.2 / 2)).map fun j => dataReadPair s (r.1 + 2 * j)).flatten
      else ((List.range r.2).map fun j => chipReadByte s (r.1 + j)).flatten))

/-- `cleanup` (R312). -/
def spidCleanup (s : State) : Except Fault State := .ok (s.push [.run (.spidSetCs false)])

end Sys2Proof.Machine
end

