-- ==== Sys2Proof/Machine/Driver.lean ====
section
/-! DEFINITION. The burst engine (41_burst.md), the dispatch of a procedure point to its controller (R122), and one step of
the host in driver mode (48_host.md rule R409). -/

namespace Sys2Proof.Machine

/-! ## Calls and bursts -/

/-- The entry checks of `burst` (R121), in its order; `none` means that the burst goes on. -/
def burstRefused (c : Config) (ctl : Controller) (hdr : BurstHeader) : Option Status :=
  match kindOf hdr.type with
  | none => some .invalidArgument
  | some kind =>
    if reservedSet c hdr.flags then some .invalidArgument
    else if 6 ≤ jstateCode c hdr.flags then some .invalidArgument
    else if kind = .commandExec ∧ c.commandUnits.contains ctl.unit = false then some .invalidOperation
    else if (kind = .read ∨ kind = .write) ∧ hdr.length = 0 then some .invalidArgument
    else none

/-- `burst(c, hdr, buf [, addr])` up to the opening (R121): a bank view activates its bank first (R192). -/
def runBurstEntry (ctl : Controller) (hdr : BurstHeader) (buf : List Half) (addr : Option Nat) (s : State) :
    Except Fault State :=
  if (s.host.burst ctl).isOpen then .error (.burstReentrant 121)
  else
    let t := s.setDrv { s.host.drv with ctl := ctl, hdr := hdr, addr := addr, buf := buf }
    .ok (match burstRefused s.cfg ctl hdr with
      | some st => t.setStatus st
      | none =>
        match ctl with
        | .i2cBank b => t.push [.run (.i2cActivate b), .run .burstOpen]
        | _ => t.push [.run .burstOpen])

/-- The burst opens and its kind is dispatched (R121); a Read or Write burst that fails takes the abort path (R125, R127, R424). -/
def runBurstOpen (s : State) : Except Fault State :=
  let c := s.host.drv.ctl
  let t := s.setBurst c ⟨true, s.host.drv.hdr.flags, false, false⟩
  .ok (match kindOf s.host.drv.hdr.type with
    | some .write => t.push [.run .preFlags, .run .setCursor, .run (.writeLoop 0), .run .postFlags, .onFail .aborted,
        .closeBurst]
    | some .read => t.push [.run .preFlags, .run .setCursor, .run (.readPrefill 0), .run .postFlags, .onFail .aborted,
        .closeBurst]
    | some .stateChange => t.push [.run .stateChange, .closeBurst]
    | some .commandExec => t.push [.run .commandExec, .closeBurst]
    | none => t.push [.closeBurst])

/-- `wait_for_write_queue_empty` after shot `k` (R125). -/
def queueWait (q k : Nat) : List Micro := if (k + 1) % q = 0 then [.run .waitWriteQueue] else []

/-- The write loop at shot `k` (R125). -/
def runWriteLoop (k : Nat) (s : State) : Except Fault State :=
  let c := s.host.drv.ctl
  let n := shotCount s.burstUnits (maxWriteShot s.cfg c)
  let q := (s.cfg.sizes c.unit).writeQueue
  .ok (if k < n then
      (s.setShot c (decide (k = 0)) (decide (k + 1 = n))).push
        (.run (.writeShot k) :: (queueWait q k ++ [.run (.writeLoop (k + 1))]))
    else if n % q ≠ 0 then s.push [.run .waitWriteQueue] else s)

/-- Number of read shots of the burst that runs. -/
def readShots (s : State) : Nat := shotCount s.burstUnits (maxReadShot s.cfg s.host.drv.ctl)

/-- `is_first_shot` and `is_last_shot` from a cursor (R127). -/
def State.cursorShot (s : State) (k : Nat) : State :=
  s.setShot s.host.drv.ctl (decide (k = 0)) (decide (k + 1 = readShots s))

/-- The prefill at request cursor `kr` (R127). -/
def runReadPrefill (kr : Nat) (s : State) : Except Fault State :=
  .ok (if kr < readShots s ∧ kr < (s.cfg.sizes s.host.drv.ctl.unit).readQueue then
      (s.cursorShot kr).push [.run (.requestRead kr), .run (.readPrefill (kr + 1))]
    else s.push [.run (.readLoop 0 kr)])

/-- The consume loop (R127). -/
def runReadLoop (kc kr : Nat) (s : State) : Except Fault State :=
  .ok (if kc < readShots s then
      (s.cursorShot kc).push [.run (.readShot kc), .run (.readNext (kc + 1) kr)]
    else s)

/-- The next request, if one is left (R127). -/
def runReadNext (kc kr : Nat) (s : State) : Except Fault State :=
  .ok (if kr < readShots s then
      (s.cursorShot kr).push [.run (.requestRead kr), .run (.readLoop kc (kr + 1))]
    else s.push [.run (.readLoop kc kr)])

/-- `stateChangeBurst` (R130): the post-flag handler runs in any case. -/
def runStateChange (s : State) : Except Fault State :=
  .ok ((s.setShot s.host.drv.ctl true true).push [.run .preFlags, .always .postFlags])

/-- `command_id : u32`: the first four bytes of a command buffer, little-endian (R101, R131). -/
def commandId (buf : List Half) : RegVal :=
  (List.range 4).foldl (fun v i => v ||| byteInto ((buf[i]?.getD 0).setWidth 8) i) 0

/-- The opaque payload of a command buffer: the bytes after `command_id` (R101, R131). -/
def commandPayload (buf : List Half) : List Half := buf.drop 4

/-- `commandExecutionBurst` (R131); a BPI burst without `addr` is rejected, this kind too (R126). -/
def runCommandExec (s : State) : Except Fault State :=
  .ok (if s.host.drv.hdr.length.toNat < 4 || missingAddr s then s.setStatus .invalidArgument
    else s.push [.run (.command (commandId s.host.drv.buf) (commandPayload s.host.drv.buf))])

/-- The operation an `execute_command` issues next: the block operation of the controller's unit that the two answers encode, if they
encode one. -/
def commandOp (u : UnitId) (high low : RegVal) : Option Instr :=
  match decode (high ++ low) with
  | some i => if i.unit = u && !i.isHost then some i else none
  | none => none

/-- `execute_command(c, command_id, payload)`, whose semantics is OPEN (R131): it issues any operations of its controller's unit, one
after the other, and returns any status, as the environment answers for the command and its payload (log entry 25). -/
def runCommand (id : RegVal) (payload : List Half) (s : State) : Except Fault State :=
  let u := s.host.drv.ctl.unit
  let high := draw (.commandWord u id payload true) s
  let low := draw (.commandWord u id payload false) high.2
  .ok (match commandOp u high.1 low.1 with
    | some i => low.2.push [.op i, .run (.command id payload)]
    | none =>
      let st := draw (.commandStatus u id payload) low.2
      st.2.setStatus ((statusOfCode (st.1.toNat % 7)).getD .ok))

/-- `cleanup(c)` (R133). A bank view of a bank that the core does not have is no controller (R120): the call is refused with
`InvalidArgument` and issues nothing (93_implementation_defined.md U24). That an open burst is checked first is a DESIGN CHOICE (log
entry 41). -/
def runCleanup (ctl : Controller) (s : State) : Except Fault State :=
  if (s.host.burst ctl).isOpen then .error (.burstReentrant 133)
  else match ctl with
    | .i2cBank b => if b < s.cfg.i2cNumBanks then i2cCleanup s else .ok (s.setStatus .invalidArgument)
    | .i2cCore => i2cCleanup s
    | .bpi => bpiCleanup s
    | .spi2 => spi2Cleanup s
    | .spid => spidCleanup s
    | .jtag => jtagCleanup s

/-! ## The callbacks (R122, R135) -/

/-- `handle_pre_burst_flags`. -/
def runPreFlags (s : State) : Except Fault State :=
  match s.host.drv.ctl with
  | .i2cBank _ => i2cPreFlags s
  | .i2cCore => i2cPreFlags s
  | .bpi => bpiPreFlags s
  | .spi2 => spi2PreFlags s
  | .spid => spidPreFlags s
  | .jtag => jtagPreFlags s

/-- `handle_post_burst_flags`. -/
def runPostFlags (s : State) : Except Fault State :=
  match s.host.drv.ctl with
  | .i2cBank _ => i2cPostFlags s
  | .i2cCore => i2cPostFlags s
  | .bpi => bpiPostFlags s
  | .spi2 => spi2PostFlags s
  | .spid => spidPostFlags s
  | .jtag => jtagPostFlags s

/-- `write_shot`. -/
def runWriteShot (k : Nat) (s : State) : Except Fault State :=
  match s.host.drv.ctl with
  | .i2cBank _ => i2cWriteShot k s
  | .i2cCore => i2cWriteShot k s
  | .bpi => bpiWriteShot k s
  | .spi2 => spi2WriteShot k s
  | .spid => spidWriteShot k s
  | .jtag => jtagWriteShot k s

/-- `request_read`; the bit-banged and the shifted reads have nothing to request (R135). -/
def runRequestRead (k : Nat) (s : State) : Except Fault State :=
  match s.host.drv.ctl with
  | .i2cBank _ => i2cRequestRead s
  | .i2cCore => i2cRequestRead s
  | .bpi => bpiRequestRead k s
  | .spi2 => spi2RequestRead k s
  | .spid => .ok s
  | .jtag => .ok s

/-- `read_shot`. -/
def runReadShot (k : Nat) (s : State) : Except Fault State :=
  match s.host.drv.ctl with
  | .i2cBank _ => i2cReadShot k s
  | .i2cCore => i2cReadShot k s
  | .bpi => bpiReadShot k s
  | .spi2 => spi2ReadShot k s
  | .spid => spidReadShot k s
  | .jtag => jtagReadShot k s

/-- `wait_for_write_queue_empty`: only the BPI controller waits (R135, R194, R238). -/
def runWaitWriteQueue (s : State) : Except Fault State :=
  match s.host.drv.ctl with
  | .bpi => bpiWaitReady s
  | _ => .ok s

/-- `burst_aborted`; the SPI controllers issue nothing (R285, R312). -/
def runAborted (s : State) : Except Fault State :=
  match s.host.drv.ctl with
  | .i2cBank _ => i2cAborted s
  | .i2cCore => i2cAborted s
  | .bpi => bpiAborted s
  | .jtag => jtagAborted s
  | _ => .ok s

/-- The cursor of a BPI burst (R126); the other controllers have none. -/
def runSetCursor (s : State) : Except Fault State :=
  match s.host.drv.ctl with
  | .bpi => bpiSetCursor s
  | _ => .ok s

/-- One point of a host procedure. -/
def runProc (p : Proc) (s : State) : Except Fault State :=
  match p with
  | .burstEntry c hdr buf addr => runBurstEntry c hdr buf addr s
  | .burstOpen => runBurstOpen s
  | .setCursor => runSetCursor s
  | .writeLoop k => runWriteLoop k s
  | .readPrefill kr => runReadPrefill kr s
  | .readLoop kc kr => runReadLoop kc kr s
  | .readNext kc kr => runReadNext kc kr s
  | .stateChange => runStateChange s
  | .commandExec => runCommandExec s
  | .command id payload => runCommand id payload s
  | .preFlags => runPreFlags s
  | .postFlags => runPostFlags s
  | .aborted => runAborted s
  | .cleanup c => runCleanup c s
  | .writeShot k => runWriteShot k s
  | .requestRead k => runRequestRead k s
  | .readShot k => runReadShot k s
  | .waitWriteQueue => runWaitWriteQueue s
  | .pollTest i bit pol bounded => runPollTest i bit pol bounded s
  | .i2cActivate b => runI2cActivate b s
  | .i2cSelect b => runI2cSelect b s
  | .i2cProgram b => runI2cProgram b s
  | .i2cReadHi b p => runI2cReadHi b p s
  | .i2cVerify lo p => runI2cVerify lo p s
  | .i2cEnable b => runI2cEnable b s
  | .i2cEnableTest b => runI2cEnableTest b s
  | .i2cForget => runI2cForget s
  | .i2cCheckAck => runI2cCheckAck s
  | .i2cStore pos => runI2cStore pos s
  | .i2cAbortTest b => runI2cAbortTest b s
  | .i2cCleanupTip b => runI2cCleanupTip b s
  | .i2cCleanupBusy b => runI2cCleanupBusy b s
  | .bpiSelect k => runBpiSelect k s
  | .bpiVerify k => runBpiVerify k s
  | .bpiSelected k => runBpiSelected k s
  | .bpiForget => runBpiForget s
  | .bpiReadCommands a n => runBpiReadCommands a n s
  | .bpiAdvance n => runBpiAdvance n s
  | .bpiReadyTest seen => runBpiReadyTest seen s
  | .bpiTake => runBpiTake s
  | .bpiStore pos => runBpiStore pos s
  | .spi2Store pos n => runSpi2Store pos n s
  | .spi2DummyRead => runSpi2DummyRead s
  | .spi2DummyDone => runSpi2DummyDone s
  | .spidSetCs on => runSpidSetCs on s
  | .spidCsDone on => runSpidCsDone on s
  | .spidSampleBit => runSpidSampleBit s
  | .spidStoreByte pos => runSpidStoreByte pos s
  | .spidSamplePair => runSpidSamplePair s
  | .spidStorePair pos => runSpidStorePair pos s
  | .jtagSetState t => runJtagSetState t s
  | .jtagTracked t => runJtagTracked t s
  | .jtagForget => runJtagForget s
  | .jtagCapture m => runJtagCapture m s
  | .jtagStore k m => runJtagStore k m s
  | .jtagSetFrequency f => runJtagSetFrequency f s

/-! ## The control stack -/

/-- Take the top entry off the control stack. -/
def State.pop (s : State) : State := s.setDrv { s.host.drv with stack := s.host.drv.stack.tail }

/-- The call returns its status and its buffer (R409). -/
def State.returnCall (s : State) : State :=
  s.setDrv { s.host.drv with
    status := .ok
    results := s.host.drv.results ++ [⟨s.host.drv.status, s.host.drv.buf⟩]
    buf := [] }

/-- One block operation of a procedure (R409): it waits while the block does not accept it (R401). -/
def microOp (i : Instr) (s : State) : Host.Outcome State Fault Refusal :=
  if s.host.drv.status ≠ .ok then .next s.pop
  else if accepts i s then toOutcome (issue i s.pop)
  else .next s

/-- One point of a procedure, passed over after a failure. -/
def microRun (p : Proc) (s : State) : Host.Outcome State Fault Refusal :=
  if s.host.drv.status ≠ .ok then .next s.pop
  else toOutcome (runProc p s.pop)

/-- One entry of the control stack. -/
def microStep (m : Micro) (s : State) : Host.Outcome State Fault Refusal :=
  match m with
  | .op i => microOp i s
  | .run p => microRun p s
  | .onFail p =>
    if s.host.drv.status = .ok then .next s.pop
    else .next ((s.pop.setStatus .ok).push [.run p, .restore s.host.drv.status])
  | .always p => .next ((s.pop.setStatus .ok).push [.run p, .combine s.host.drv.status])
  | .restore st => .next (s.pop.setStatus st)
  | .combine st => .next (if st = .ok then s.pop else s.pop.setStatus st)
  | .closeBurst => .next (s.pop.setBurst s.host.drv.ctl { s.host.burst s.host.drv.ctl with isOpen := false })
  | .ret => .next s.pop.returnCall

/-- The number of payload units a Write burst's buffer holds (R121, R349): one per unit, or the bytes of JTAG's one or two bit
streams. -/
def payloadLength (c : Config) (ctl : Controller) (hdr : BurstHeader) : Nat :=
  match ctl with
  | .jtag => (if hdr.flags.getLsbD c.flagBits.raw then 2 else 1) * ((unitCount c ctl hdr + 7) / 8)
  | _ => hdr.length.toNat

/-- The buffer of a Write burst is a list of exactly the units the header counts, and that of a CommandExec burst of a controller with
commands the bytes it counts; every controller but BPI takes bytes (R74, R121, R131, R349; log entry 14). -/
def payloadFits (c : Config) : Call → Bool
  | .burst ctl hdr buf _ =>
    match kindOf hdr.type with
    | some .write => decide (buf.length = payloadLength c ctl hdr) &&
        (decide (ctl.unit = .bpi) || buf.all (fun v => decide (v.toNat < 256)))
    | some .commandExec => !c.commandUnits.contains ctl.unit ||
        (decide (buf.length = hdr.length.toNat) && buf.all (fun v => decide (v.toNat < 256)))
    | _ => true
  | _ => true

/-- The procedure of a call. -/
def Call.proc : Call → Proc
  | .burst c hdr buf addr => .burstEntry c hdr buf addr
  | .cleanup c => .cleanup c
  | .jtagSetFrequency f => .jtagSetFrequency f

/-- The construction of the SPI-v2 controller is still to come (R462). -/
def needsConstruction (s : State) : Bool := !s.spi2.dummyDone && s.cfg.ownUnits.contains .spi2

/-- The calls of teardown (R465): `cleanup` of every bank view in bank order, then of the other units in unit order, of the
controllers that the host agent's lock domain holds (R438). -/
def teardownCalls (c : Config) : List Call :=
  (((List.range c.i2cNumBanks).map Controller.i2cBank ++
    [Controller.bpi, .spi2, .spid, .jtag]).filter (fun k => c.ownUnits.contains k.unit)).map Call.cleanup

/-- The list of calls has ended (R409): the teardown that was asked for runs (R465), or the run is over. -/
def callsEnd (s : State) : State :=
  match s.host.drv.teardown with
  | .off => s.endRun .ok
  | .asked => s.setDrv { s.host.drv with calls := teardownCalls s.cfg, teardown := .running }
  | .running => (s.setDrv { s.host.drv with teardown := .done }).endRun .ok
  | .done => s.endRun .ok

/-- The next call starts, after construction (R462). -/
def callStart (c : Call) (rest : List Call) (s : State) : Host.Outcome State Fault Refusal :=
  if needsConstruction s then .next ((s.setStatus .ok).push [.run .spi2DummyRead])
  else if payloadFits s.cfg c then
    .next (s.setDrv { s.host.drv with
      calls := rest, stack := [.run c.proc, .ret], status := .ok, buf := [], bits := [] })
  else .refused .callPayload

/-- One host step in driver mode (R409): the running call goes on; else construction (R462); else the next call starts; else the
list has ended. After teardown no call runs (R465). -/
def driverStep (s : State) : Host.Outcome State Fault Refusal :=
  match s.host.drv.stack with
  | m :: _ => microStep m s
  | [] =>
    match s.host.drv.calls with
    | [] => .next (callsEnd s)
    | c :: rest => if s.host.drv.teardown = .done then .next (s.endRun .ok) else callStart c rest s

end Sys2Proof.Machine
end

