-- ==== Sys2Proof/Machine/Scheduler.lean ====
section
/-! DEFINITION. Which agents may step and what their steps are (00_scope.md R6, 48_host.md R400, R401, R410). -/

namespace Sys2Proof.Machine

/-! ## The host -/

/-- The instruction word at `H.pc` (R400). -/
def fetchWord (s : State) : Option MceWord := s.host.program[s.host.pc]?

/-- The block accepts what the host would issue next (R401). An illegal word is not waited for: it faults. -/
def hostAccepted (s : State) : Bool :=
  match s.host.mode with
  | .program =>
    match fetchWord s with
    | none => false
    | some w =>
      match decode w with
      | none => true
      | some i => accepts i s
  | .driver =>
    match s.host.drv.stack with
    | .op i :: _ => decide (s.host.drv.status ≠ .ok) || accepts i s
    | _ => true

/-- The host step is enabled (R401): the run is live, something is left to do, and the block accepts it. -/
def hostEnabled (s : State) : Bool := s.host.status.isNone && hostAccepted s

/-- The host step in program mode (R401): an illegal word faults (R91). -/
def programStep (s : State) : Host.Outcome State Fault Refusal :=
  match fetchWord s with
  | none => .next s
  | some w =>
    match decode w with
    | none => .fault (.illegal 91)
    | some i => exec i s

/-- The host's step. -/
def hostStep (s : State) : Host.Outcome State Fault Refusal :=
  match s.host.mode with
  | .program => programStep s
  | .driver => driverStep s

/-! ## The agents (R410) -/

/-- The posted write at position `k` of the other lock domain `d` can be performed now (R81, R411). -/
def foreignBusEnabled (d k : Nat) (s : State) : Bool := s.hasDomain d && busEnabled k (s.swap d)

/-- The host agent of the other lock domain `d` can step (R401, R411). -/
def foreignEnabled (d : Nat) (s : State) : Bool := s.hasDomain d && hostEnabled (s.swap d)

/-- Whether an agent's step is enabled. -/
def enabled (a : Agent) (s : State) : Bool :=
  match a with
  | .host => hostEnabled s
  | .i2c => i2cEnabled s
  | .bpi => bpiEnabled s
  | .cpld => cpldEnabled s
  | .spi2 => spi2Enabled s
  | .jtag => jtagEnabled s
  | .bus k => busEnabled k s
  | .foreign d => foreignEnabled d s
  | .foreignBus d k => foreignBusEnabled d k s

/-- The step of one agent. A host agent of another lock domain steps as the first one does, with its own program or calls, its own
units and its own accesses in flight (R411, R441). -/
def agentStep (a : Agent) (s : State) : Host.Outcome State Fault Refusal :=
  match a with
  | .host => hostStep s
  | .i2c => .next (i2cStep s)
  | .bpi => toOutcome (bpiStep s)
  | .cpld => .next (cpldStep s)
  | .spi2 => toOutcome (spi2Step s)
  | .jtag => .next (jtagStep s)
  | .bus k => toOutcome (busStep k s)
  | .foreign d => mapNext (State.swap d) (hostStep (s.swap d))
  | .foreignBus d k => mapNext (State.swap d) (toOutcome (busStep k (s.swap d)))

/-- The agents of the other lock domain `d`: its host agent, and its posted writes. -/
def foreignAgents (s : State) (d : Nat) : List Agent :=
  .foreign d :: (List.range (s.swap d).path.posted.length).map (Agent.foreignBus d)

/-- Every agent of the model (R6). -/
def agents (s : State) : List Agent :=
  [.host, .i2c, .bpi, .cpld, .spi2, .jtag] ++ (List.range s.path.posted.length).map Agent.bus ++
    ((List.range s.others.length).map (foreignAgents s)).flatten

/-- The agents whose step is enabled. -/
def enabledAgents (s : State) : List Agent := (agents s).filter (fun a => enabled a s)

/-- The agent that steps next: the head of the turn list, or the scheduler's free choice among the enabled ones (R84, R410; log
entry 1). -/
def nextAgent (s : State) : Option Agent :=
  match s.sched.turns with
  | a :: _ => some a
  | [] => (enabledAgents s)[Config.freeTurn s.sched.chosen % (enabledAgents s).length]?

/-- The turn is taken. -/
def State.turnTaken (s : State) : State := { s with sched := ⟨s.sched.turns.tail, s.sched.chosen + 1⟩ }

end Sys2Proof.Machine
end

