-- ==== Sys2Proof/Machine/Fetch.lean ====
section
/-! DEFINITION. Loading from outside: a word where the host fetches next, or a list of driver calls (log entry 5). -/

namespace Sys2Proof.Machine

/-- A program with the word `w` at index `pc`; words before it that the program does not have are `HOST.BARRIER`s. -/
def placeWord (program : List MceWord) (pc : Nat) (w : MceWord) : List MceWord :=
  program.take pc ++ (List.replicate (pc - program.length) (encode .hostBarrier) ++ (w :: program.drop (pc + 1)))

/-- The state with the word `w` where the host agent fetches next, live, in program mode, and the host's turn. -/
def State.withWord (s : State) (w : MceWord) : State :=
  { s with
    host := { s.host with mode := .program, program := placeWord s.host.program s.host.pc w, status := none }
    sched := ⟨.host :: s.sched.turns, s.sched.chosen⟩ }

/-- The state with a host program loaded and the host in program mode (R400): an empty program has ended at once. -/
def State.withProgram (s : State) (p : List MceWord) : State :=
  { s with host := { s.host with
      mode := .program, program := p, pc := 0, status := if p.isEmpty then some .ok else none } }

/-- The state with a list of driver calls loaded and the host in driver mode (R409). -/
def State.withCalls (s : State) (cs : List Call) : State :=
  { s with host := { s.host with mode := .driver, status := none, drv := { s.host.drv with calls := cs } } }

/-- The state in which the driver-mode run ends with teardown (R465; log entry 33). -/
def State.withTeardown (s : State) : State :=
  { s with host := { s.host with drv := { s.host.drv with teardown := .asked } } }

/-- Load the host agent of the other lock domain `d` as `load` loads the first one (R411). -/
def State.onDomain (d : Nat) (load : State → State) (s : State) : State := (load (s.swap d)).swap d

end Sys2Proof.Machine
end

