-- ==== Sys2Proof/Machine/Step.lean ====
section
/-! DEFINITION. One step of the machine: one enabled agent takes its step (48_host.md R410). -/

namespace Sys2Proof.Machine

/-- One step. Where no agent is enabled (a finished run, or a stuck one, 70_reset_and_hazards.md R470) the state stays; a turn of an
agent that is not enabled is passed over. -/
def step (s : State) : Host.Outcome State Fault Refusal :=
  match nextAgent s with
  | none => .next s
  | some a => if enabled a s then agentStep a s.turnTaken else .next s.turnTaken

/-- The state that fetches the instruction of `nbits` bits `w` next. -/
def State.withFetchWord (s : State) (nbits w : Nat) : State := s.withWord (BitVec.ofNat 64 (w % 2 ^ nbits))

end Sys2Proof.Machine
end

