-- ==== Sys2Proof/Safety.lean ====
section
/-! DEFINITION. The terms the claims use: the host after a word, what an access needs, when a run is over or stuck, and the
invariant that every step keeps. -/

namespace Sys2Proof.Machine

/-! ## The opcode table -/

/-- The rows of spec/opcode_table.json, as (mask, match) pairs in its order (R91, R97): a word is the row's operation where it
agrees with `match` on the bits of `mask`, must-be-zero bits among them. -/
def opcodeRows : List (MceWord × MceWord) :=
  [(0xFFF8FFFFFFFFFF00#64, 0x0000000000000000#64),
   (0xFFF8FFFFFFFFFF00#64, 0x0100000000000000#64),
   (0xFFF8FFFFFFFFFFFF#64, 0x0200000000000000#64),
   (0xFFF8FFFFFFFFFFFF#64, 0x0300000000000000#64),
   (0xFFF8FFFFFFFFFFFE#64, 0x0400000000000000#64),
   (0xFFF8FFFFFFFFFFFF#64, 0x0500000000000000#64),
   (0xFFF8FFFFFFFFFC00#64, 0x0600000000000000#64),
   (0xFFF8FFFFFFFFF8FF#64, 0x0700000000000000#64),
   (0xFFF8FFFFFFFFFFFF#64, 0x0800000000000000#64),
   (0xFFF8FFFFFFFFFFFF#64, 0x0900000000000000#64),
   (0xFFF8FFFFFFFFFFFF#64, 0x0A00000000000000#64)] ++
  [(0xFFFFFFFF00000000#64, 0x1000000000000000#64),
   (0xFFFFFFFFFFFFFFFF#64, 0x1100000000000000#64),
   (0xFFFFFFFFFFFFFF00#64, 0x1200000000000000#64),
   (0xFFFFFFFFFFFFFFFF#64, 0x1300000000000000#64),
   (0xFFFFFFFFFFFFF0C0#64, 0x2000000000000000#64),
   (0xFFFFFFFFFFFFFFFF#64, 0x2100000000000000#64),
   (0xFFFFFFFF00000000#64, 0x2200000000000000#64),
   (0xFFFFFFFFFFFFFFFF#64, 0x2300000000000000#64),
   (0xFFFFFFFFFFFFFC00#64, 0x3000000000000000#64),
   (0xFFFFFFFFFFFFFFF0#64, 0x3100000000000000#64),
   (0xFFFFFFFFFFFFFFFF#64, 0x3200000000000000#64)] ++
  [(0xFFF0FFFF00000000#64, 0x4000000000000000#64),
   (0xFFFFFFFFFFFFFFFF#64, 0x4100000000000000#64),
   (0xFFFFFFFFFFFF0000#64, 0x4200000000000000#64),
   (0xFFFFFFFFFFFFFFFF#64, 0x4300000000000000#64),
   (0xFFC0FFFFFFFFFFFF#64, 0xF000000000000000#64),
   (0xFFC0FFFFFFFFFFF0#64, 0xF100000000000000#64),
   (0xFFFFFFFFFFFFFFF0#64, 0xF200000000000000#64),
   (0xFFFFFFFFFFFFFFFF#64, 0xF300000000000000#64),
   (0xFFFFFFFFFFFFFFFF#64, 0xF400000000000000#64)]

/-! ## The host after a word (R21, R400, R401) -/

/-- The host agent after a word that does not end the run early: the next index, and `Ok` at the end of the program. -/
def afterWord (h : HostAgent) : HostAgent :=
  { h with
    pc := h.pc + 1
    status := if h.pc + 1 = h.program.length then some .ok else h.status }

/-- The host agent after a read that returned `v`. -/
def afterRead (h : HostAgent) (v : RegVal) : HostAgent := afterWord { h with last := v, lastKnown := true }

/-- The environment after one answer. -/
def afterAnswer (e : Env) : Env := ⟨e.answers.tail, e.drawn + 1⟩

/-- The machine after a register write was performed and the host went one word on: `t` holds the write's effect on the
units, the access is recorded, and nothing else differs from `t` (R401). -/
def afterWrite (i : Instr) (t : State) : State :=
  { t with
    host := afterWord t.host
    history := t.history ++ [.access i (BitVec.ofNat 32 i.value)] }

/-- The machine after a register read that returned `v` and the host went one word on: `t` holds what the read took out of a
FIFO and what the environment answered; the result is in `H.last` and the access is recorded (R401). -/
def afterReadOf (i : Instr) (v : RegVal) (t : State) : State :=
  { t with
    host := afterRead t.host v
    history := t.history ++ [.access i v] }

/-- An access of bank `b` faults where the core has no such bank (R160), when the block accepts it. -/
def BankChecked (b : Nat) (i : Instr) (s : State) : Prop :=
  s.cfg.i2cNumBanks ≤ b → accepts i s = true → exec i s = .fault .i2cBank

/-- The access reaches its register (R71, R160, R438) and is performed when it is issued (R80). -/
def Direct (i : Instr) (s : State) : Prop := accessFault s.cfg i = none ∧ s.cfg.regOrder = .inOrder

/-- A command or transfer start of the I2C core by the rule `r` (R170, R172, R175), performed at issue: its three faults, and its
effect `f` on the unit where none of them applies. -/
structure StartsTransfer (r : Nat) (i : Instr) (f : I2cUnit → I2cUnit) (s : State) : Prop where
  unwritten : Direct i s → s.i2c.enKnown = false → exec i s = .fault (.unwritten r)
  disabled : Direct i s → s.i2c.enKnown = true → s.i2c.en = false → exec i s = .fault (.i2cDisabled r)
  in_progress : Direct i s → s.i2c.enKnown = true → s.i2c.en = true → s.i2c.tip = true → exec i s = .fault (.i2cTip r)
  starts : Direct i s → s.i2c.enKnown = true → s.i2c.en = true → s.i2c.tip = false →
    exec i s = .next (afterWrite i { s with i2c := f s.i2c })
  bank : ∀ b, i.bank? = some b → BankChecked b i s

/-- The engine is between two commands and reaches `cmd` next (R220, R222). -/
structure EngineAt (cmd : RegVal) (rest : List RegVal) (u : BpiUnit) : Prop where
  head : u.cmdq = cmd :: rest
  not_waiting : u.waiting = false
  no_burst : u.burstLeft = 0

/-- The words R222's nine checks do not admit, by the bits of the word. -/
def Contradictory (cmd : RegVal) : Prop :=
  (cmd.getLsbD 24 ∧ cmd.getLsbD 25) ∨
  (cmd.getLsbD 29 ∧ cmd.getLsbD 30) ∨
  (cmd.getLsbD 28 ∧ ¬(cmd.getLsbD 29 ∧ cmd.getLsbD 31)) ∨
  (cmd.getLsbD 31 ∧ ¬(cmd.getLsbD 29 ∨ cmd.getLsbD 30)) ∨
  (cmd.getLsbD 27 ∧ (cmd.getLsbD 29 ∨ cmd.getLsbD 30 ∨ cmd.getLsbD 28)) ∨
  ((cmd.getLsbD 26 ∧ cmd.getLsbD 30) ∨ (cmd.getLsbD 26 ∧ cmd.getLsbD 28) ∨ (cmd.getLsbD 30 ∧ cmd.getLsbD 28)) ∨
  (cmd.getLsbD 26 ∧ cmd.getLsbD 31) ∨
  (¬cmd.getLsbD 26 ∧ ¬cmd.getLsbD 30 ∧ ¬cmd.getLsbD 28 ∧ cmd.toNat % 2 ^ 24 ≠ 0) ∨
  ((cmd.getLsbD 30 ∨ cmd.getLsbD 28) ∧ 65536 ≤ cmd.toNat % 2 ^ 24)

/-- The word loads an address outside the bank (R224). -/
def OutsideBank (c : Config) (cmd : RegVal) : Prop := cmd.getLsbD 26 ∧ cmdP cmd &&& ~~~c.bpiAddressMask ≠ 0

/-- The word writes a data word wider than the flash word (R229). -/
def TooWide (c : Config) (cmd : RegVal) : Prop := cmd.getLsbD 30 ∧ 2 ^ c.bpiWordBits ≤ cmd.toNat % 2 ^ 16

/-- What R222, R224 and R229 refuse when the engine reaches a word. -/
def Refused (c : Config) (cmd : RegVal) : Prop := Contradictory cmd ∨ OutsideBank c cmd ∨ TooWide c cmd

/-- The chip select after the start of a command (R223). -/
def selectedAt (cmd : RegVal) (u : BpiUnit) : Bool := cmd.getLsbD 24 || u.cs

/-- The address a command works from (R224). -/
def addressAt (cmd : RegVal) (u : BpiUnit) : BitVec 24 := if cmd.getLsbD 26 then cmdP cmd else u.addr

/-- The question a flash read at `a` asks: the flash's word when it is selected, any word otherwise (R225). -/
def flashQuery (cs : Bool) (bank : Byte) (a : BitVec 24) : Oracle := if cs then .flashWord bank a else .flashUndriven

/-- The word a flash read pushes: the low `BPI_WORD_BITS` bits of the answer (R34, R88). -/
def flashAnswer (c : Config) (v : RegVal) : Half := BitVec.ofNat 16 (v.toNat % 2 ^ 16 % 2 ^ c.bpiWordBits)

/-! ## Runs -/

/-- No agent can step: the run is finished, or it is stuck. -/
def quiet (s : State) : Bool := (enabledAgents s).isEmpty

/-- The run of every host agent has ended with a status (R400, R411). -/
def ended (s : State) : Bool := s.host.status.isSome && s.others.all (fun h => h.host.status.isSome)

/-- Nothing can step and a host agent's run has not ended: a stuck run (R470), which is no fault. -/
def stuck (s : State) : Bool := quiet s && !ended s

/-- A run of the machine that never ends: each state is the step of the one before. -/
def IsRun (r : Nat → State) : Prop := ∀ n, step (r n) = .next (r (n + 1))

/-- The agents of the unit steps (R410). -/
def unitAgents : List Agent := [.i2c, .bpi, .cpld, .spi2, .jtag]

/-- Weak fairness (R410; 92_eei_decisions.md D9): a unit step that stays enabled eventually runs. -/
def WeaklyFair (r : Nat → State) : Prop :=
  ∀ a ∈ unitAgents, ∀ n, (∀ m, n ≤ m → enabled a (r m) = true) → ∃ m, n ≤ m ∧ nextAgent (r m) = some a

/-- `n` steps of the BPI engine. -/
def engineRun : Nat → State → Except Fault State
  | 0, s => .ok s
  | n + 1, s =>
    match bpiStep s with
    | .ok t => engineRun n t
    | .error e => .error e

/-- `n` steps of the host in driver mode, no unit stepping between them. -/
def hostRun : Nat → State → Option State
  | 0, s => some s
  | n + 1, s =>
    match driverStep s with
    | .next t => hostRun n t
    | .fault _ => none
    | .refused _ => none

/-- The register accesses of a history, in order. -/
def accesses (h : List Event) : List Event :=
  h.filter fun e =>
    match e with
    | .access _ _ => true
    | _ => false

/-! ## The invariant -/

/-- The I2C unit of every state of a run. -/
structure I2cInv (c : Config) (u : I2cUnit) : Prop where
  /-- A transfer is in progress exactly while its operation is held (R29). -/
  tip_pending : u.tip = u.pending.isSome
  /-- A transfer is on a bank of the core (R32, R160). -/
  pending_bank : ∀ op, u.pending = some op → op.bank < c.i2cNumBanks
  /-- A transfer is in progress only while the core is enabled (R160, R168). -/
  tip_enabled : u.tip = true → u.enabled = true

/-- The BPI engine of every state of a run. -/
structure BpiInv (c : Config) (u : BpiUnit) : Prop where
  /-- The command FIFO holds no more than its capacity (R33). -/
  cmdq_fits : u.cmdq.length ≤ c.bpiCmdFifoDepth
  /-- The read FIFO holds no more than its capacity (R34, R233). -/
  rdq_fits : u.rdq.length ≤ c.bpiReadFifoDepth
  /-- `B.burst_left : 0..2^16` (R37). -/
  burst_left : u.burstLeft ≤ 65536
  /-- `B.primed : 0..3` (R38). -/
  primed : u.primed ≤ 3
  /-- The command in progress stays at the head of the FIFO (R37). -/
  in_progress : u.waiting = true ∨ u.burstLeft ≠ 0 → u.cmdq ≠ []
  /-- One command is in progress at a time (R220). -/
  one_in_progress : u.waiting = true → u.burstLeft = 0
  /-- A status wait runs with the chip select known (R226). -/
  wait_select : u.waiting = true → u.csKnown = true
  /-- A burst runs only primed, with the address and the chip select known (R228). -/
  burst_ready : u.burstLeft ≠ 0 → u.primed = 3 ∧ u.addrKnown = true ∧ u.csKnown = true
  /-- The flash address stays inside one bank (R224, R227). -/
  addr_in_bank : u.addrKnown = true → u.addr &&& ~~~c.bpiAddressMask = 0

/-- The register path of every state of a run. -/
structure PathInv (c : Config) (p : RegPath) : Prop where
  /-- Nothing is posted in `InOrder` (R80). -/
  in_order : c.regOrder = .inOrder → p.posted = []
  /-- Posted writes are numbered in issue order (R81). -/
  posted_order : p.posted.Pairwise (fun a b => a.id < b.id)
  /-- The numbers of posted writes are used ones. -/
  posted_old : ∀ w ∈ p.posted, w.id < p.nextId
  /-- Only writes that reach a register are posted. -/
  posted_reach : ∀ w ∈ p.posted, w.instr.isWrite = true ∧ accessFault c w.instr = none

/-- The host agent of every state of a run. -/
structure HostInv (h : HostAgent) : Prop where
  /-- `H.pc` is an index of the program, or its length (R21). -/
  pc_in_program : h.pc ≤ h.program.length
  /-- At the end of a program the run has ended (R400). -/
  run_over : h.mode = .program → h.program ≠ [] → h.pc = h.program.length → h.status ≠ none

/-- What holds in every state of a run, of every host agent. -/
structure Inv (s : State) : Prop where
  i2c : I2cInv s.cfg s.i2c
  bpi : BpiInv s.cfg s.bpi
  /-- The latched control fields hold no VALID (R45, R50). -/
  latched_valid : s.spi2.ctrl.valid = false
  /-- The prescaler fits its field (R56, R343). -/
  presc_fits : s.jtag.presc.toNat < 2 ^ s.cfg.jtagPrescalerBits
  path : PathInv s.cfg s.path
  host : HostInv s.host
  /-- One host agent per lock domain (R411). -/
  domains : s.others.length = s.cfg.otherDomains.length
  others : ∀ (d : Nat) (h : OtherHost) (us : List UnitId), s.others[d]? = some h → s.cfg.otherDomains[d]? = some us →
    HostInv h.host ∧ PathInv { s.cfg with ownUnits := us } h.path

end Sys2Proof.Machine
end

