-- ==== Sys2Proof/Certificates/Slice0/Obligations.lean ====
section
/-! DEFINITION. The statements for the provers. OBLIGATIONS.json says of each whether it formalises a rule R<n> (basis stated) or rests
on a section of spec/ (basis derived). -/

open Sys2Proof Sys2Proof.Machine

/-! ## Encoding -/

/-- R90, R97, R99: decoding the word of a well-formed instruction gives the instruction back, whatever its operands. -/
def Obligations.DecodeEncode : Prop := ∀ i : Instr, i.WellFormed = true → decode (encode i) = some i

/-- R90, R91, R97: a word that decodes is the word of the instruction it decodes to, and that instruction is well formed; so no
bit of a legal word is dropped and no two words mean the same. -/
def Obligations.EncodeDecode : Prop :=
  ∀ (w : MceWord) (i : Instr), decode w = some i → i.WellFormed = true ∧ encode i = w

/-- R91: a word is an operation of the table exactly when it agrees with a row on the row's mask, must-be-zero bits among them;
every other word is illegal, and the host step that reaches it faults with `F_ILLEGAL`. -/
def Obligations.IllegalWords : Prop :=
  (∀ w : MceWord, (∃ i, decode w = some i) ↔ ∃ r ∈ opcodeRows, w &&& r.1 = r.2) ∧
  (∀ (s : State) (w : MceWord), s.host.mode = .program → s.host.status = none → fetchWord s = some w →
    (∀ r ∈ opcodeRows, w &&& r.1 ≠ r.2) → enabled .host s = true ∧ agentStep .host s = .fault (.illegal 91))

/-- 95_test_vectors.md section 2.1: words written out by hand decode to their instructions, one of every unit at least. -/
def Obligations.DecodedWords : Prop :=
  decode 0x06000000000003A0#64 = some (.i2cWrite 0 0xA0#8 true true) ∧
  decode 0x0701000000000600#64 = some (.i2cRead 1 false true true) ∧
  decode 0x10000000B0000002#64 = some (.bpiCmd 0xB0000002#32) ∧
  decode 0x2000000000000017#64 = some (.spi2Wctrl ⟨true, true, true, 2#2, false, 0#4⟩) ∧
  decode 0x30000000000003CA#64 = some (.spidWctrl ⟨false, true, 2#4, 15#4⟩) ∧
  decode 0x4002000000010000#64 = some (.jtagShift 3 1#16 0#16) ∧
  decode 0xF102000000000006#64 = some (.hostCheck 2 false 6) ∧
  decode 0xF030000000000000#64 = some (.hostPoll 16 true) ∧
  decode 0x0B00000000000000#64 = none ∧
  decode 0x0900000100000000#64 = none

/-! ## The step -/

/-- R401, R410: at the host's turn, in a live run, a step runs exactly the instruction the word at `H.pc` decodes to; an illegal
word faults; a word the block does not accept yet waits, and its turn is passed over (the model's choice, log entry 20). -/
def Obligations.StepRunsDecoded : Prop :=
  ∀ (s : State) (w : MceWord), s.host.mode = .program → s.host.status = none → fetchWord s = some w →
    nextAgent s = some .host →
    (∀ i, decode w = some i → accepts i s = true → step s = exec i s.turnTaken) ∧
    (∀ i, decode w = some i → accepts i s = false → step s = .next s.turnTaken) ∧
    (decode w = none → step s = .fault (.illegal 91))

/-- R400, R401 (log entry 5 for the load): a word stored where the host fetches next is the very next thing that runs, and
storing it changes nothing but the program at that index, the host's mode and status and the turns. -/
def Obligations.StoredWordRuns : Prop :=
  ∀ (s : State) (i : Instr), i.WellFormed = true →
    let l := s.withFetchWord 64 (encode i).toNat
    l = { s with
      host := { s.host with mode := .program, program := l.host.program, status := none }
      sched := ⟨.host :: s.sched.turns, s.sched.chosen⟩ } ∧
    (∀ j, j ≠ s.host.pc → j < s.host.program.length → l.host.program[j]? = s.host.program[j]?) ∧
    fetchWord l = some (encode i) ∧
    (accepts i s = true → step l = exec i l.turnTaken)

/-- R84, R410 (log entry 1 for the turn list, log entry 20 for the last two): a step is the step of one enabled agent. Any enabled
agent can be the one; which one is a free choice where the turn list says nothing; with no agent enabled the state stays, and a
listed turn of an agent that is not enabled is passed over. -/
def Obligations.StepChoices : Prop :=
  ∀ s : State,
    (s.sched.turns = [] → quiet s = true → step s = .next s) ∧
    (s.sched.turns = [] → quiet s = false → ∃ a ∈ enabledAgents s, step s = agentStep a s.turnTaken) ∧
    (∀ a rest, s.sched.turns = a :: rest → enabled a s = true → step s = agentStep a s.turnTaken) ∧
    (∀ a rest, s.sched.turns = a :: rest → enabled a s = false → step s = .next s.turnTaken)

/-- R71, R160, R438 (the order of the last two is the model's choice, log entry 21): an access makes the bank fault before anything
else, then the fault of a foreign lock domain, then that of an address `REG_BINDING` does not give. R70, R75, R106 (that a row with
a misaligned address or no layout gives none is DEDUCED, log entry 30): an access that makes none of them is one access of a whole
register, aligned and inside the address space, whose real value the block reads as the operation's own. -/
def Obligations.AccessFaults : Prop :=
  ∀ (i : Instr) (s : State), i.isHost = false → accepts i s = true →
    (∀ b, i.bank? = some b → s.cfg.i2cNumBanks ≤ b → exec i s = .fault .i2cBank) ∧
    ((∀ b, i.bank? = some b → b < s.cfg.i2cNumBanks) → i.unit ∉ s.cfg.ownUnits → exec i s = .fault .lockDomain) ∧
    ((∀ b, i.bank? = some b → b < s.cfg.i2cNumBanks) → i.unit ∈ s.cfg.ownUnits → regAddr s.cfg i = none →
      exec i s = .fault .badAddr) ∧
    (accessFault s.cfg i = none → ∃ a, regAddr s.cfg i = some a ∧ a % 4 = 0 ∧ a < 2 ^ s.cfg.regAddrBits ∧
      ∀ v, ∃ w, busAccess s.cfg i v = some ⟨i.isWrite, a, w⟩ ∧ modelValue s.cfg i w = v)

/-- R97: no instruction is refused, in any state. -/
def Obligations.NothingRefused : Prop := ∀ (i : Instr) (s : State) (r : Refusal), exec i s ≠ .refused r

/-! ## Posted writes -/

/-- R81, R221, R401 (the numbering of posted writes, and that R221's wait holds for posted writes too, are log entry 6): with posted
writes every write operation is accepted at once, but a command write to a full command FIFO, during which the host is not enabled;
all an accepted one does is to be posted behind the write a fence names. -/
def Obligations.PostedWrites : Prop :=
  ∀ (i : Instr) (s : State), i.isWrite = true → accessFault s.cfg i = none →
    s.cfg.regOrder = .postedUntilBarrier →
    let waits : Prop := (∃ cmd, i = .bpiCmd cmd) ∧ s.cfg.bpiCmdFifoDepth ≤ s.bpi.cmdq.length
    (¬waits → exec i s = .next { s with
      host := afterWord s.host
      path :=
        { posted := s.path.posted ++ [⟨s.path.nextId, i, s.path.fence⟩]
          nextId := s.path.nextId + 1
          prevWrite := some s.path.nextId
          fence := none } }) ∧
    (waits → exec i s = .next s ∧
      (s.host.mode = .program → fetchWord s = some (encode i) → enabled .host s = false))

/-- 48_host.md and 20_memory.md (log entry 6): with posted writes a read, a poll, a check or a halt does what it does in order, and
then no write is left for a `HOST.B2B` to order and a fence is used up; a read behind a fence waits. -/
def Obligations.PostedOtherWords : Prop :=
  ∀ (i : Instr) (s : State), i.isWrite = false → i ≠ .hostBarrier → i ≠ .hostB2b →
    s.cfg.regOrder = .postedUntilBarrier →
    (accepts i s = false → exec i s = .next s) ∧
    (accepts i s = true → exec i s =
      mapNext (fun t => { t with cfg := s.cfg, path := { s.path with prevWrite := none, fence := none } })
        (exec i { s with cfg := { s.cfg with regOrder := .inOrder } }))

/-- R81, R82 (log entry 6): a posted write can be performed exactly when no earlier write to the same register waits, the write a
fence orders before it is done and the block has room; performing it takes it out and has the effect of the write, whose fault
comes then (log entry 32): the step succeeds exactly when the effect does. That a control write of SPI-v2 captures the data register
at this moment, and not when it was issued, is the model's choice, log entry 31; that the step does not ask whether the host's run has
ended, log entry 20. -/
def Obligations.PostedWritesPerformed : Prop :=
  ∀ (k : Nat) (s : State) (w : PostedWrite), s.path.posted[k]? = some w →
    (busEnabled k s = true ↔
      (∀ j < k, ∀ e, s.path.posted[j]? = some e →
        (regEntry s.cfg e.instr).map RegEntry.addr ≠ (regEntry s.cfg w.instr).map RegEntry.addr) ∧
      (∀ n, w.after = some n → ∀ e ∈ s.path.posted, e.id ≠ n) ∧
      (∀ cmd, w.instr = .bpiCmd cmd → s.bpi.cmdq.length < s.cfg.bpiCmdFifoDepth)) ∧
    (∀ t, busStep k s = .ok t →
      t.path = { s.path with posted := s.path.posted.eraseIdx k } ∧ t.host = s.host ∧ t.cfg = s.cfg ∧
      ∃ u, writeEffect w.instr { s with path := t.path } = .ok u ∧
        t = { u with history := u.history ++ [.access w.instr (BitVec.ofNat 32 w.instr.value)] }) ∧
    (∀ u, writeEffect w.instr { s with path := { s.path with posted := s.path.posted.eraseIdx k } } = .ok u →
      busStep k s = .ok { u with history := u.history ++ [.access w.instr (BitVec.ofNat 32 w.instr.value)] }) ∧
    (∀ e, writeEffect w.instr { s with path := { s.path with posted := s.path.posted.eraseIdx k } } = .error e →
      busStep k s = .error e)


/-! ## I2C -/

/-- R164, R165: a prescaler byte write stores the byte, with the core disabled or its enable still unknown; with the core
enabled it faults. -/
def Obligations.I2cPrescalerWrites : Prop :=
  ∀ (b : Nat) (v : Byte) (s : State),
    (encode (.i2cWpreLo b v) = mce 0 0 b v.toNat ∧ encode (.i2cWpreHi b v) = mce 0 1 b v.toNat) ∧
    (Direct (.i2cWpreLo b v) s →
      if s.i2c.enKnown = true ∧ s.i2c.en = true then exec (.i2cWpreLo b v) s = .fault (.i2cPrescEn 164)
      else exec (.i2cWpreLo b v) s =
        .next (afterWrite (.i2cWpreLo b v) { s with i2c := { s.i2c with preLo := v, preLoKnown := true } })) ∧
    (Direct (.i2cWpreHi b v) s →
      if s.i2c.enKnown = true ∧ s.i2c.en = true then exec (.i2cWpreHi b v) s = .fault (.i2cPrescEn 165)
      else exec (.i2cWpreHi b v) s =
        .next (afterWrite (.i2cWpreHi b v) { s with i2c := { s.i2c with preHi := v, preHiKnown := true } })) ∧
    BankChecked b (.i2cWpreLo b v) s ∧ BankChecked b (.i2cWpreHi b v) s

/-- R168: writing the enable. From 0 or unknown to 1 every bus state of the core is drawn; writing 0 during a transfer abandons
it, with its bus state drawn and `I.rx` and `I.rxack` as they were; otherwise only the enable is written. -/
def Obligations.I2cEnableWrite : Prop :=
  ∀ (b : Nat) (e : Bool) (s : State),
    encode (.i2cWctrl b e) = mce 0 4 b e.toNat ∧
    (Direct (.i2cWctrl b e) s →
      (e = true → s.i2c.enKnown = true → s.i2c.en = true → exec (.i2cWctrl b e) s = .next (afterWrite (.i2cWctrl b e) s)) ∧
      (e = true → ¬(s.i2c.enKnown = true ∧ s.i2c.en = true) →
        ∃ (u : Vector Bool 8) (a : Nat → RegVal),
          exec (.i2cWctrl b e) s = .next (afterWrite (.i2cWctrl b e) { s with
            i2c := { s.i2c with en := true, enKnown := true, busy := u }
            env := ⟨s.env.answers.drop s.cfg.i2cNumBanks, s.env.drawn + s.cfg.i2cNumBanks⟩
            history := s.history ++ (List.range s.cfg.i2cNumBanks).map (fun x => .answer (.i2cBusy x) (a x)) }) ∧
          (∀ x < s.cfg.i2cNumBanks, x < s.env.answers.length → s.env.answers[x]? = some (a x)) ∧
          ∀ x < 8, u[x]? = if x < s.cfg.i2cNumBanks then some ((a x).getLsbD 0) else s.i2c.busy[x]?) ∧
      (e = false → s.i2c.tip = false →
        exec (.i2cWctrl b e) s =
          .next (afterWrite (.i2cWctrl b e) { s with i2c := { s.i2c with en := false, enKnown := true } })) ∧
      (∀ op, e = false → s.i2c.tip = true → s.i2c.pending = some op →
        exec (.i2cWctrl b e) s = .next (afterWrite (.i2cWctrl b e) { s.answered (.i2cBusy op.bank) with
          i2c := { s.i2c with
            en := false
            enKnown := true
            tip := false
            pending := none
            busy := s.i2c.busy.setIfInBounds op.bank ((s.nextAnswer (.i2cBusy op.bank)).getLsbD 0) } }))) ∧
    BankChecked b (.i2cWctrl b e) s

/-- R170, R172, R175: a transfer needs the enable written, the core enabled and no transfer in progress; it then becomes the
operation in progress, and a written byte enters the transmit FIFO. -/
def Obligations.I2cTransferIssue : Prop :=
  ∀ (b : Nat) (d : Byte) (sta sto nack : Bool) (s : State),
    encode (.i2cWrite b d sta sto) = mce 0 6 b (d.toNat + 256 * sta.toNat + 512 * sto.toNat) ∧
    encode (.i2cRead b sta sto nack) = mce 0 7 b (256 * sta.toNat + 512 * sto.toNat + 1024 * nack.toNat) ∧
    encode (.i2cStop b) = mce 0 8 b 0 ∧
    StartsTransfer 170 (.i2cWrite b d sta sto)
      (fun u => { u with tx := d, txKnown := true, pending := some (.write b d sta sto), tip := true }) s ∧
    StartsTransfer 172 (.i2cRead b sta sto nack)
      (fun u => { u with pending := some (.read b sta sto nack), tip := true }) s ∧
    StartsTransfer 175 (.i2cStop b) (fun u => { u with pending := some (.stop b), tip := true }) s

/-- R166, R167, R169, R177, R178: the I2C register reads: what each returns, and that it changes no unit. -/
def Obligations.I2cRegisterReads : Prop :=
  ∀ (b : Nat) (s : State),
    (encode (.i2cRpreLo b) = mce 0 2 b 0 ∧ encode (.i2cRpreHi b) = mce 0 3 b 0 ∧ encode (.i2cRctrl b) = mce 0 5 b 0 ∧
      encode (.i2cRstat b) = mce 0 9 b 0 ∧ encode (.i2cRdata b) = mce 0 10 b 0) ∧
    (Direct (.i2cRpreLo b) s →
      if s.i2c.preLoKnown then exec (.i2cRpreLo b) s = .next (afterReadOf (.i2cRpreLo b) (s.i2c.preLo.setWidth 32) s)
      else exec (.i2cRpreLo b) s = .fault (.unwritten 166)) ∧
    (Direct (.i2cRpreHi b) s →
      if s.i2c.preHiKnown then exec (.i2cRpreHi b) s = .next (afterReadOf (.i2cRpreHi b) (s.i2c.preHi.setWidth 32) s)
      else exec (.i2cRpreHi b) s = .fault (.unwritten 167)) ∧
    (Direct (.i2cRctrl b) s →
      if s.i2c.enKnown then
        exec (.i2cRctrl b) s = .next (afterReadOf (.i2cRctrl b) (if s.i2c.en then 1#32 else 0#32) s)
      else exec (.i2cRctrl b) s = .fault (.unwritten 169)) ∧
    (Direct (.i2cRstat b) s → b < 8 →
      ∃ v : RegVal, exec (.i2cRstat b) s = .next (afterReadOf (.i2cRstat b) v s) ∧ v.toNat < 8 ∧
        v.getLsbD 0 = s.i2c.tip ∧ some (v.getLsbD 1) = s.i2c.busy[b]? ∧ v.getLsbD 2 = s.i2c.rxack) ∧
    (Direct (.i2cRdata b) s →
      match s.i2c.rx with
      | some d => exec (.i2cRdata b) s = .next (afterReadOf (.i2cRdata b) (d.setWidth 32) s)
      | none => exec (.i2cRdata b) s = .fault .i2cRxEmpty) ∧
    BankChecked b (.i2cRpreLo b) s ∧ BankChecked b (.i2cRpreHi b) s ∧ BankChecked b (.i2cRctrl b) s ∧
    BankChecked b (.i2cRstat b) s ∧ BankChecked b (.i2cRdata b) s

/-- R171: the completion of a byte write: START holds the bus, the slave addressed acknowledges as the environment answers, a
byte with no slave addressed is not acknowledged and nothing is drawn, STOP frees the bus. -/
def Obligations.I2cWriteCompletes : Prop :=
  ∀ (b : Nat) (d : Byte) (sta sto : Bool) (s : State), b < 8 → s.i2c.tip = true →
    s.i2c.pending = some (.write b d sta sto) →
    let busy := if sto then s.i2c.busy.setIfInBounds b false else if sta then s.i2c.busy.setIfInBounds b true else s.i2c.busy
    enabled .i2c s = true ∧
    (sta = true ∨ s.i2c.busy[b]? = some true →
      agentStep .i2c s = .next { s.answered (.i2cAck b d) with
        i2c := { s.i2c with tip := false, pending := none, busy := busy, rxack := (s.nextAnswer (.i2cAck b d)).getLsbD 0 }
        history := (s.answered (.i2cAck b d)).history ++
          [.i2cWrite b sta d ((s.nextAnswer (.i2cAck b d)).getLsbD 0) sto] }) ∧
    (sta = false → s.i2c.busy[b]? = some false →
      agentStep .i2c s = .next { s with
        i2c := { s.i2c with tip := false, pending := none, busy := busy, rxack := true }
        history := s.history ++ [.i2cWrite b sta d true sto] })

/-- R174, R176: the completion of a byte read, whose byte is the environment's in either case and which leaves `I.rxack` as it
was, and that of a stand-alone STOP. -/
def Obligations.I2cReadAndStopComplete : Prop :=
  (∀ (b : Nat) (sta sto nack : Bool) (s : State), b < 8 → s.i2c.tip = true →
    s.i2c.pending = some (.read b sta sto nack) →
    let q : Oracle := if sta = true ∨ s.i2c.busy[b]? = some true then .i2cData b nack else .i2cUndriven b
    let d : Byte := (s.nextAnswer q).setWidth 8
    enabled .i2c s = true ∧
    agentStep .i2c s = .next { s.answered q with
      i2c := { s.i2c with
        tip := false
        pending := none
        rx := some d
        busy := if sto then s.i2c.busy.setIfInBounds b false
          else if sta then s.i2c.busy.setIfInBounds b true else s.i2c.busy }
      history := (s.answered q).history ++ [.i2cRead b sta d nack sto] }) ∧
  (∀ (b : Nat) (s : State), s.i2c.tip = true → s.i2c.pending = some (.stop b) →
    enabled .i2c s = true ∧
    agentStep .i2c s = .next { s with
      i2c := { s.i2c with tip := false, pending := none, busy := s.i2c.busy.setIfInBounds b false }
      history := s.history ++ [.i2cStop b] })

/-- R161: the prescaler of a bus frequency over the mathematical integers, with both extremes rejected. -/
def Obligations.I2cFrequency : Prop :=
  (∀ f clk : Nat, bus2core f clk =
    if f = 0 then none
    else if (clk : Int) / (5 * f) - 1 < 0 ∨ (0x10000 : Int) ≤ (clk : Int) / (5 * f) - 1 then none
    else some ((clk : Int) / (5 * f) - 1).toNat) ∧
  bus2core 100000 125000000 = some 249

/-- 42_i2c.md, with the inverse function that the spec marks as its own inference: a prescaler gives the slowest bus that is at
least as fast as the frequency asked for. -/
def Obligations.I2cFrequencyTight : Prop :=
  core2bus 249 125000000 = 100000 ∧ core2bus 61 125000000 = 403225 ∧
  ∀ f clk p : Nat, bus2core f clk = some p → f ≤ core2bus p clk ∧ core2bus (p + 1) clk < f


/-! ## BPI -/

/-- R221 (that the wait holds for posted writes too is the model's choice, log entry 6): a command word joins the command FIFO where
there is a free place; where there is none the host's write waits, in order and with posted writes: the host step is not enabled and
nothing happens. -/
def Obligations.BpiCommandWrite : Prop :=
  ∀ (cmd : RegVal) (s : State),
    encode (.bpiCmd cmd) = mce 1 0 0 cmd.toNat ∧
    (Direct (.bpiCmd cmd) s → s.bpi.cmdq.length < s.cfg.bpiCmdFifoDepth →
      exec (.bpiCmd cmd) s =
        .next (afterWrite (.bpiCmd cmd) { s with bpi := { s.bpi with cmdq := s.bpi.cmdq ++ [cmd] } })) ∧
    (s.cfg.bpiCmdFifoDepth ≤ s.bpi.cmdq.length →
      exec (.bpiCmd cmd) s = .next s ∧
      (s.host.mode = .program → fetchWord s = some (encode (.bpiCmd cmd)) → enabled .host s = false))

/-- R40, R232: the data register read: an empty FIFO reads as empty and stays so; otherwise the oldest word is returned and leaves
the FIFO; the error bit is drawn on every read. -/
def Obligations.BpiDataRead : Prop :=
  encode .bpiRdata = mce 1 1 0 0 ∧
  ∀ s : State, Direct .bpiRdata s →
    ∃ v : RegVal, v.toNat < 2 ^ 19 ∧ v.getLsbD 18 = (s.nextAnswer .fifoError).getLsbD 0 ∧
      match s.bpi.rdq with
      | [] =>
        exec .bpiRdata s = .next (afterReadOf .bpiRdata v (s.answered .fifoError)) ∧
        v.toNat % 2 ^ 16 = 0 ∧ v.getLsbD 16 = true ∧ v.getLsbD 17 = false
      | w :: rest =>
        exec .bpiRdata s =
          .next (afterReadOf .bpiRdata v { s.answered .fifoError with bpi := { s.bpi with rdq := rest } }) ∧
        v.toNat % 2 ^ 16 = w.toNat ∧ v.getLsbD 16 = false ∧
        v.getLsbD 17 = decide (s.bpi.rdq.length = s.cfg.bpiReadFifoDepth)

/-- R230 (the completion event in the history is DEDUCED from R89, log entry 7; the bank after a completion with no bank write before
it, log entry 12): a bank write sets the register and the busy bit; its completion clears the bit and either takes, or, unless the
CPLD is reliable, leaves the old bank, as the environment draws. With the busy bit drawn 1 at reset and no bank write before the
completion, the bank that takes is the environment's. -/
def Obligations.BpiBankWrite : Prop :=
  (∀ (k : Byte) (s : State),
    encode (.bpiWbank k) = mce 1 2 0 k.toNat ∧
    (Direct (.bpiWbank k) s → exec (.bpiWbank k) s =
      .next (afterWrite (.bpiWbank k) { s with cpld := { s.cpld with bankReg := k, bankRegKnown := true, busy := true } }))) ∧
  (∀ s : State,
    (enabled .cpld s = s.cpld.busy) ∧
    (s.cpld.bankRegKnown = true → s.cfg.bpiCpldReliable = true →
      agentStep .cpld s = .next { s with
        cpld := { s.cpld with bankEff := s.cpld.bankReg, busy := false }
        history := s.history ++ [.cpldDone s.cpld.bankReg] }) ∧
    (s.cpld.bankRegKnown = true → s.cfg.bpiCpldReliable = false →
      let bank := if (s.nextAnswer .cpldTook).getLsbD 0 then s.cpld.bankReg else s.cpld.bankEff
      agentStep .cpld s = .next { s.answered .cpldTook with
        cpld := { s.cpld with bankEff := bank, busy := false }
        history := (s.answered .cpldTook).history ++ [.cpldDone bank] }) ∧
    (s.cpld.bankRegKnown = false →
      let any : Byte := (s.nextAnswer .cpldUnknown).setWidth 8
      let u := s.answered .cpldUnknown
      (s.cfg.bpiCpldReliable = true →
        agentStep .cpld s = .next { u with
          cpld := { s.cpld with bankEff := any, busy := false }
          history := u.history ++ [.cpldDone any] }) ∧
      (s.cfg.bpiCpldReliable = false →
        let bank := if (u.nextAnswer .cpldTook).getLsbD 0 then any else s.cpld.bankEff
        agentStep .cpld s = .next { u.answered .cpldTook with
          cpld := { s.cpld with bankEff := bank, busy := false }
          history := (u.answered .cpldTook).history ++ [.cpldDone bank] })))

/-- R43, R231: the bank read: the busy bit, and the bank the CPLD drives where it can be verified, any byte otherwise. -/
def Obligations.BpiBankRead : Prop :=
  encode .bpiRbank = mce 1 3 0 0 ∧
  ∀ s : State, Direct .bpiRbank s →
    (s.cfg.bpiBankVerify = true →
      exec .bpiRbank s =
        .next (afterReadOf .bpiRbank (BitVec.ofNat 32 (s.cpld.busy.toNat + 256 * s.cpld.bankEff.toNat)) s)) ∧
    (s.cfg.bpiBankVerify = false →
      exec .bpiRbank s = .next (afterReadOf .bpiRbank
        (BitVec.ofNat 32 (s.cpld.busy.toNat + 256 * ((s.nextAnswer .bankField).toNat % 256))) (s.answered .bankField)))

/-- 43_bpi.md, the admissible command words (that the width of a written word is checked before a missing address or chip select is
the model's order, DEDUCED, log entry 11): the engine faults with `F_BPI_CMD` on exactly the words that fail one of the nine checks
of R222, load an address outside the bank (R224), or write a word wider than the flash word (R229), in this order, and the fault
names the rule. -/
def Obligations.EngineRefusals : Prop :=
  ∀ (cmd : RegVal) (rest : List RegVal) (s : State), EngineAt cmd rest s.bpi →
    (bpiStep s = .error (.bpiCmd 222) ↔ Contradictory cmd) ∧
    (bpiStep s = .error (.bpiCmd 224) ↔ ¬Contradictory cmd ∧ OutsideBank s.cfg cmd) ∧
    (bpiStep s = .error (.bpiCmd 229) ↔ ¬Contradictory cmd ∧ ¬OutsideBank s.cfg cmd ∧ TooWide s.cfg cmd) ∧
    ((∃ r, bpiStep s = .error (.bpiCmd r)) ↔ Refused s.cfg cmd)

/-- R223, R224 (the completion event is DEDUCED from R89, log entry 7): a word without an access drives the chip select, loads the
address and clears the priming, as its bits say, in one step. -/
def Obligations.EngineSelectAndLoad : Prop :=
  ∀ (cmd : RegVal) (rest : List RegVal) (s : State), EngineAt cmd rest s.bpi → ¬Refused s.cfg cmd →
    cmd.getLsbD 27 = false → cmd.getLsbD 28 = false → cmd.getLsbD 29 = false → cmd.getLsbD 30 = false →
    bpiStep s = .ok { s with
      bpi := { s.bpi with
        cmdq := rest
        cs := if cmd.getLsbD 25 then false else selectedAt cmd s.bpi
        csKnown := s.bpi.csKnown || cmd.getLsbD 24 || cmd.getLsbD 25
        addr := addressAt cmd s.bpi
        addrKnown := s.bpi.addrKnown || cmd.getLsbD 26
        primed := if cmd.getLsbD 26 then 0 else s.bpi.primed }
      history := s.history ++ [.bpiDone cmd] }

/-- R223, R224, R225, R227 with R34 (DEDUCED: the completion event, log entry 7; that a deselected read's word is cut to the flash
word, log entry 13; that the increment comes before the access, log entry 34): a single read, plain or with increment: it needs the
address and the chip select, pushes the word of its address, and moves the priming counter. -/
def Obligations.EngineReads : Prop :=
  ∀ (cmd : RegVal) (rest : List RegVal) (s : State), EngineAt cmd rest s.bpi → ¬Refused s.cfg cmd →
    cmd.getLsbD 28 = false → cmd.getLsbD 29 = true →
    let a := if cmd.getLsbD 31 then (s.bpi.addr + 1) &&& s.cfg.bpiAddressMask else addressAt cmd s.bpi
    let q := flashQuery (selectedAt cmd s.bpi) s.cpld.bankEff a
    ((s.bpi.addrKnown = false ∧ cmd.getLsbD 26 = false) ∨ (s.bpi.csKnown = false ∧ cmd.getLsbD 24 = false) →
      bpiStep s = .error (.unwritten (if cmd.getLsbD 31 then 227 else 225))) ∧
    ((s.bpi.addrKnown = true ∨ cmd.getLsbD 26 = true) → (s.bpi.csKnown = true ∨ cmd.getLsbD 24 = true) →
      bpiStep s = .ok { s.answered q with
        bpi := { s.bpi with
          cmdq := rest
          rdq := s.bpi.rdq ++ [flashAnswer s.cfg (s.nextAnswer q)]
          addr := a
          addrKnown := true
          cs := if cmd.getLsbD 25 then false else selectedAt cmd s.bpi
          csKnown := true
          primed :=
            if cmd.getLsbD 31 then (if s.bpi.primed = 1 ∨ s.bpi.primed = 2 then s.bpi.primed + 1 else s.bpi.primed)
            else 1 }
        history := (s.answered q).history ++ [.bpiDone cmd] })

/-- R223, R228 with R34 (DEDUCED: the completion event, log entry 7; the push in the step that starts the word, log entry 10; that a
deselected burst's words are cut to the flash word, log entry 13; that the increment comes before the access, log entry 34): a burst
needs the address, the chip select and its priming; each of its steps moves the address on and pushes one word, and the last one
ends the command. -/
def Obligations.EngineBurstSteps : Prop :=
  ∀ (cmd : RegVal) (rest : List RegVal) (s : State), cmd.getLsbD 28 = true →
    let a := (s.bpi.addr + 1) &&& s.cfg.bpiAddressMask
    let query (cs : Bool) : Oracle := flashQuery cs s.cpld.bankEff a
    let pushed (cs : Bool) (left : Nat) : State := { s.answered (query cs) with
      bpi := { s.bpi with
        cmdq := if left = 0 then rest else s.bpi.cmdq
        rdq := s.bpi.rdq ++ [flashAnswer s.cfg (s.nextAnswer (query cs))]
        addr := a
        cs := if left = 0 ∧ cmd.getLsbD 25 = true then false else cs
        csKnown := true
        burstLeft := left }
      history := (s.answered (query cs)).history ++ (if left = 0 then [.bpiDone cmd] else []) }
    (EngineAt cmd rest s.bpi → ¬Refused s.cfg cmd →
      ((s.bpi.addrKnown = false ∨ (s.bpi.csKnown = false ∧ cmd.getLsbD 24 = false)) →
        bpiStep s = .error (.unwritten 228)) ∧
      (s.bpi.addrKnown = true → (s.bpi.csKnown = true ∨ cmd.getLsbD 24 = true) → s.bpi.primed ≠ 3 →
        bpiStep s = .error .bpiUnprimed) ∧
      (s.bpi.addrKnown = true → (s.bpi.csKnown = true ∨ cmd.getLsbD 24 = true) → s.bpi.primed = 3 →
        bpiStep s = .ok (pushed (selectedAt cmd s.bpi) (cmd.toNat % 2 ^ 16)))) ∧
    (∀ m, s.bpi.cmdq = cmd :: rest → s.bpi.waiting = false → s.bpi.csKnown = true → s.bpi.burstLeft = m + 1 →
      bpiStep s = .ok (pushed s.bpi.cs m))

/-- R223, R224, R226 (the completion event, log entry 7, and the push in the step that starts the word, log entry 10, are DEDUCED):
a status wait needs the chip select; each of its steps pushes one status word, and a word with the ready bit ends the command. -/
def Obligations.EngineStatusWait : Prop :=
  ∀ (cmd : RegVal) (rest : List RegVal) (s : State), cmd.getLsbD 27 = true →
    let query (cs : Bool) : Oracle := if cs then .flashStatus s.cpld.bankEff else .flashUndriven
    let word (cs : Bool) : Half :=
      if cs then flashAnswer s.cfg (s.nextAnswer (query cs)) else (s.nextAnswer (query cs)).setWidth 16
    let pushed (cs : Bool) (u : BpiUnit) : State := { s.answered (query cs) with
      bpi := { u with
        cmdq := if (word cs).getLsbD 7 then rest else s.bpi.cmdq
        rdq := s.bpi.rdq ++ [word cs]
        cs := if (word cs).getLsbD 7 = true ∧ cmd.getLsbD 25 = true then false else cs
        csKnown := true
        waiting := !(word cs).getLsbD 7 }
      history := (s.answered (query cs)).history ++ (if (word cs).getLsbD 7 then [.bpiDone cmd] else []) }
    (EngineAt cmd rest s.bpi → ¬Refused s.cfg cmd →
      (s.bpi.csKnown = false → cmd.getLsbD 24 = false → bpiStep s = .error (.unwritten 226)) ∧
      ((s.bpi.csKnown = true ∨ cmd.getLsbD 24 = true) →
        bpiStep s = .ok (pushed (selectedAt cmd s.bpi) { s.bpi with
          addr := addressAt cmd s.bpi
          addrKnown := s.bpi.addrKnown || cmd.getLsbD 26
          primed := if cmd.getLsbD 26 then 0 else s.bpi.primed }))) ∧
    (s.bpi.cmdq = cmd :: rest → s.bpi.waiting = true → s.bpi.csKnown = true → bpiStep s = .ok (pushed s.bpi.cs s.bpi))

/-- R223, R229 (DEDUCED: the completion event, log entry 7; that the increment comes before the access, log entry 34): a flash
write, plain or with increment: it needs the address and the chip select, is recorded when the flash is selected, changes no later
read, and clears the priming. -/
def Obligations.EngineWrites : Prop :=
  ∀ (cmd : RegVal) (rest : List RegVal) (s : State), EngineAt cmd rest s.bpi → ¬Refused s.cfg cmd →
    cmd.getLsbD 30 = true →
    let a := if cmd.getLsbD 31 then (s.bpi.addr + 1) &&& s.cfg.bpiAddressMask else s.bpi.addr
    ((s.bpi.addrKnown = false ∨ (s.bpi.csKnown = false ∧ cmd.getLsbD 24 = false)) →
      bpiStep s = .error (.unwritten 229)) ∧
    (s.bpi.addrKnown = true → (s.bpi.csKnown = true ∨ cmd.getLsbD 24 = true) →
      bpiStep s = .ok { s with
        bpi := { s.bpi with
          cmdq := rest
          addr := a
          cs := if cmd.getLsbD 25 then false else selectedAt cmd s.bpi
          csKnown := true
          primed := 0 }
        history := s.history ++
          (if selectedAt cmd s.bpi then [.flashWrite s.cpld.bankEff a (BitVec.ofNat 16 (cmd.toNat % 2 ^ 16))] else []) ++
          [.bpiDone cmd] })

/-- R233: a step of the engine never loses or overwrites a word: it leaves the read FIFO or adds one word at its end, and a step
that would add one to a full FIFO is not enabled; once a word has been taken out, the engine can step again. -/
def Obligations.EngineBackPressure : Prop :=
  (∀ s t : State, bpiStep s = .ok t →
    (t.bpi.rdq = s.bpi.rdq ∨ ∃ w, t.bpi.rdq = s.bpi.rdq ++ [w]) ∧
    (t.bpi.rdq ≠ s.bpi.rdq → s.cfg.bpiReadFifoDepth ≤ s.bpi.rdq.length → enabled .bpi s = false)) ∧
  (∀ (s : State) (w : Half) (r : List Half), s.bpi.cmdq ≠ [] → s.bpi.rdq = w :: r →
    s.bpi.rdq.length ≤ s.cfg.bpiReadFifoDepth → enabled .bpi { s with bpi := { s.bpi with rdq := r } } = true)

/-- R234, R235 with R225, R227, R228: the commands that `read_commands(a, L)` issues make the engine push exactly `L` words in
`L + 1` steps, the answers for the addresses `a`, the one after it, and so on inside the bank, in that order, and leave it ready
for the next command. Where the read FIFO has room for them, the engine is enabled at every one of these steps (R233). -/
def Obligations.ReadCommandsReadAllWords : Prop :=
  ∀ (l : Nat) (a : BitVec 24) (rest : List RegVal) (s : State), 1 ≤ l → l < 65540 →
    s.cfg.bpiReadCommand = 0x20000000#32 → s.cfg.bpiReadIncCommand = 0xA0000000#32 →
    s.cfg.bpiReadBurstIncCommand = 0xB0000000#32 →
    a &&& ~~~s.cfg.bpiAddressMask = 0 → s.bpi.csKnown = true → s.bpi.cs = true → s.bpi.waiting = false →
    s.bpi.burstLeft = 0 → s.bpi.cmdq = loadAddrCmd a :: (readCommands s.cfg l ++ rest) →
    (s.bpi.rdq.length + l ≤ s.cfg.bpiReadFifoDepth →
      ∀ k ≤ l, ∃ u, engineRun k s = .ok u ∧ enabled .bpi u = true) ∧
    ∃ (t : State) (v : Nat → RegVal),
      engineRun (l + 1) s = .ok t ∧
      t.bpi = { s.bpi with
        cmdq := rest
        rdq := s.bpi.rdq ++ (List.range l).map (fun k => flashAnswer s.cfg (v k))
        addr := (nextFlashAddr s.cfg)^[l - 1] a
        addrKnown := true
        primed := min l 3 } ∧
      t.history.filter (fun e => match e with | .answer _ _ => true | _ => false) =
        s.history.filter (fun e => match e with | .answer _ _ => true | _ => false) ++
          (List.range l).map (fun k => .answer (.flashWord s.cpld.bankEff ((nextFlashAddr s.cfg)^[k] a)) (v k)) ∧
      (∀ k < s.env.answers.length, k < l → s.env.answers[k]? = some (v k))


/-! ## SPI-v2, SPI-dual and JTAG -/

/-- R279, R302, R343: the register writes that only set a register: the SPI-v2 data register, the SPI-dual flash select, and the
JTAG prescaler, whose bits at and above its width are ignored, which sets the test clock and faults while a frame is in progress. -/
def Obligations.PlainRegisterWrites : Prop :=
  ∀ (v : RegVal) (f : BitVec 4) (n : Half) (s : State),
    (encode (.spi2Wdata v) = mce 2 2 0 v.toNat ∧ encode (.spidWfsel f) = mce 3 1 0 f.toNat ∧
      encode (.jtagWpresc n) = mce 4 2 0 n.toNat) ∧
    (Direct (.spi2Wdata v) s → exec (.spi2Wdata v) s =
      .next (afterWrite (.spi2Wdata v) { s with spi2 := { s.spi2 with txd := v, txdKnown := true } })) ∧
    (Direct (.spidWfsel f) s → exec (.spidWfsel f) s =
      .next (afterWrite (.spidWfsel f) { s with
        spid := { s.spid with fsel := f, fselKnown := true }
        history := s.history ++ [.spidFsel f] })) ∧
    (Direct (.jtagWpresc n) s → s.jtag.busy = false → exec (.jtagWpresc n) s =
      .next (afterWrite (.jtagWpresc n) { s with jtag := { s.jtag with
        presc := BitVec.ofNat 16 (n.toNat % 2 ^ s.cfg.jtagPrescalerBits), prescKnown := true } })) ∧
    (∀ t, Direct (.jtagWpresc n) s → exec (.jtagWpresc n) s = .next t → s.cfg.jtagPrescalerBits ≤ 16 →
      t.testClock = some ((s.cfg.jtagClk : Rat) / 2 ^ (n.toNat % 2 ^ s.cfg.jtagPrescalerBits + 1))) ∧
    (Direct (.jtagWpresc n) s → s.jtag.busy = true → exec (.jtagWpresc n) s = .fault (.jtagBusy 343))

/-- R44, R50, R278, R280 (that an unknown control register draws one answer is log entry 8): the SPI-v2 reads: the latched control
fields, with VALID 0, and whether the read FIFO holds an entry; and the oldest entry, which leaves the FIFO. -/
def Obligations.Spi2Reads : Prop :=
  (encode .spi2Rctrl = mce 2 1 0 0 ∧ encode .spi2Rdata = mce 2 3 0 0) ∧
  ∀ s : State,
    (Direct .spi2Rctrl s → s.spi2.ctrlKnown = true →
      exec .spi2Rctrl s = .next (afterReadOf .spi2Rctrl (BitVec.ofNat 32
        (s.spi2.ctrl.cs.toNat + 2 * s.spi2.ctrl.rw.toNat + 8 * s.spi2.ctrl.cntM1.toNat + 32 * s.spi2.ctrl.quad.toNat +
          256 * s.spi2.ctrl.dev.toNat + (if s.spi2.rdq = [] then 0 else 65536))) s)) ∧
    (Direct .spi2Rctrl s → s.spi2.ctrlKnown = false →
      ∃ v : RegVal, exec .spi2Rctrl s = .next (afterReadOf .spi2Rctrl v (s.answered .spi2Ctrl)) ∧
        v.getLsbD 2 = false ∧ v.getLsbD 6 = false ∧ v.getLsbD 7 = false ∧ (v.getLsbD 16 = true ↔ s.spi2.rdq ≠ []) ∧
        (∀ k, 11 < k → k ≠ 16 → v.getLsbD k = false) ∧
        (∀ k, k < 12 → k ≠ 2 → k ≠ 6 → k ≠ 7 → v.getLsbD k = (s.nextAnswer .spi2Ctrl).getLsbD k)) ∧
    (Direct .spi2Rdata s →
      match s.spi2.rdq with
      | [] => exec .spi2Rdata s = .fault .spi2RxEmpty
      | e :: rest => exec .spi2Rdata s = .next (afterReadOf .spi2Rdata e { s with spi2 := { s.spi2 with rdq := rest } }))

/-- R46, R271: a control write joins the queue with the data register as it is at the issue, and does nothing else yet. -/
def Obligations.Spi2ControlIssue : Prop :=
  ∀ (ctl : Spi2Ctl) (s : State),
    encode (.spi2Wctrl ctl) = mce 2 0 0 (ctl.cs.toNat + 2 * ctl.rw.toNat + 4 * ctl.valid.toNat + 8 * ctl.cntM1.toNat +
      32 * ctl.quad.toNat + 256 * ctl.dev.toNat) ∧
    (Direct (.spi2Wctrl ctl) s → exec (.spi2Wctrl ctl) s = .next (afterWrite (.spi2Wctrl ctl) { s with
      spi2 := { s.spi2 with accq := s.spi2.accq ++ [⟨ctl, s.spi2.txd, s.spi2.txdKnown⟩] } }))

/-- R271 to R274, R276 (the completion event is DEDUCED from R89, log entry 7): performing the oldest control write: its fields are
latched; a write access sends its `CNT_M1 + 1` low bytes in order; a read access makes one entry of `CNT_M1 + 1` bytes with the
bytes above them 0, whose answers come from the selected device where the access is undisturbed; the first access is disturbed. -/
def Obligations.Spi2Accesses : Prop :=
  ∀ (a : Spi2Access) (rest : List Spi2Access) (s : State), s.spi2.accq = a :: rest →
    let n := a.ctl.cntM1.toNat + 1
    let latched : Spi2Unit := { s.spi2 with accq := rest, ctrl := { a.ctl with valid := false }, ctrlKnown := true }
    enabled .spi2 s = true ∧
    (a.ctl.valid = false → agentStep .spi2 s = .next { s with
      spi2 := latched
      history := s.history ++ [.spi2Done a.ctl] }) ∧
    (a.ctl.valid = true → a.ctl.rw = false → a.txdKnown = false → agentStep .spi2 s = .fault (.unwritten 271)) ∧
    (a.ctl.valid = true → a.ctl.rw = false → a.txdKnown = true → agentStep .spi2 s = .next { s with
      spi2 := { latched with fresh := false }
      history := s.history ++
        (List.range n).map (fun i =>
          .spiWrite a.ctl.dev a.ctl.quad a.ctl.cs (BitVec.ofNat 8 (a.txd.toNat / 2 ^ (8 * i))) s.spi2.fresh) ++
        [.spi2Done a.ctl] }) ∧
    (a.ctl.valid = true → a.ctl.rw = true →
      let q : Oracle := if a.ctl.cs = true ∧ s.spi2.fresh = false ∧ a.ctl.dev.toNat < 2 ^ s.cfg.spi2DevBits then
          .spiByte a.ctl.dev a.ctl.quad else .spiUndriven
      ∃ (v : Nat → RegVal) (e : RegVal),
        agentStep .spi2 s = .next { s with
          spi2 := { latched with fresh := false, rdq := s.spi2.rdq ++ [e] }
          env := ⟨s.env.answers.drop n, s.env.drawn + n⟩
          history := s.history ++ (List.range n).map (fun i => .answer q (v i)) ++
            [.spiRead a.ctl.dev a.ctl.quad a.ctl.cs e n, .spi2Done a.ctl] } ∧
        (∀ i < n, i < s.env.answers.length → s.env.answers[i]? = some (v i)) ∧
        ∀ i < 4, e.toNat / 2 ^ (8 * i) % 256 = if i < n then (v i).toNat % 256 else 0)

/-- R301, R304 (that an edge names no flash select while it was never written is log entry 28): a control write of SPI-dual sets the
lines at once; a clock edge with the flash selected is recorded when the old level is known, with the lines the block drives. -/
def Obligations.SpidControlWrite : Prop :=
  ∀ (c : SpidCtl) (s : State),
    encode (.spidWctrl c) = mce 3 0 0 (c.sck.toNat + 2 * c.cs.toNat + 4 * c.dout.toNat + 64 * c.oe.toNat) ∧
    (Direct (.spidWctrl c) s →
      exec (.spidWctrl c) s = .next (afterWrite (.spidWctrl c) { s with
        spid := { s.spid with ctrl := c, ctrlKnown := true }
        history := s.history ++
          (if s.spid.ctrlKnown = true ∧ c.cs = true ∧ s.spid.ctrl.sck = false ∧ c.sck = true then
            [.spidRise (if s.spid.fselKnown then some s.spid.fsel else none) c.dout c.oe]
           else if s.spid.ctrlKnown = true ∧ c.cs = true ∧ s.spid.ctrl.sck = true ∧ c.sck = false then
            [.spidFall (if s.spid.fselKnown then some s.spid.fsel else none)]
           else []) ++ [.spidCtrl c] }))

/-- R54, R303 (that the question names no flash select while it was never written is log entry 28): the input read: a line the block
drives reads back as driven, with no answer asked for; any other line is the environment's; no unit changes. -/
def Obligations.SpidInputRead : Prop :=
  encode .spidRin = mce 3 2 0 0 ∧
  ∀ s : State, Direct .spidRin s →
    let driven (i : Nat) : Bool := s.spid.ctrlKnown && s.spid.ctrl.oe.getLsbD i
    let select : Option (BitVec 4) := if s.spid.fselKnown then some s.spid.fsel else none
    let free := (List.range 4).filter (fun i => !driven i)
    ∃ (a : Nat → RegVal) (v : RegVal),
      exec .spidRin s = .next (afterReadOf .spidRin v { s with
        env := ⟨s.env.answers.drop free.length, s.env.drawn + free.length⟩
        history := s.history ++ free.map (fun i => .answer (.spidLine select i) (a i)) }) ∧
      (∀ j < free.length, j < s.env.answers.length → s.env.answers[j]? = (free[j]?).map a) ∧
      v.toNat < 16 ∧
      ∀ i < 4, v.getLsbD i = if driven i then s.spid.ctrl.dout.getLsbD i else (a i).getLsbD 0

/-- R340: a frame is accepted when none is in progress; its operands become the frame in progress. -/
def Obligations.JtagShiftIssue : Prop :=
  ∀ (n : Nat) (tms tdi : Half) (s : State),
    (1 ≤ n → encode (.jtagShift n tms tdi) = mce 4 0 (n - 1) (tdi.toNat + 65536 * tms.toNat)) ∧
    (Direct (.jtagShift n tms tdi) s → s.jtag.busy = false →
      exec (.jtagShift n tms tdi) s = .next (afterWrite (.jtagShift n tms tdi) { s with
        jtag := { s.jtag with pending := ⟨n, tms, tdi⟩, busy := true } })) ∧
    (Direct (.jtagShift n tms tdi) s → s.jtag.busy = true → exec (.jtagShift n tms tdi) s = .fault (.jtagBusy 340))

/-- R342, R344 (that the read before the first frame gives 16 bits of the answer is DEDUCED, log entry 13): the TDO read gives the bits
of the last completed frame, or any 16 bits before the first; the status read gives the busy bit; neither changes a unit. -/
def Obligations.JtagReads : Prop :=
  (encode .jtagRtdo = mce 4 1 0 0 ∧ encode .jtagRstat = mce 4 3 0 0) ∧
  ∀ s : State,
    (Direct .jtagRtdo s → s.jtag.tdoKnown = true →
      exec .jtagRtdo s = .next (afterReadOf .jtagRtdo (BitVec.ofNat 32 s.jtag.tdo.toNat) s)) ∧
    (Direct .jtagRtdo s → s.jtag.tdoKnown = false →
      exec .jtagRtdo s = .next (afterReadOf .jtagRtdo
        (BitVec.ofNat 32 ((s.nextAnswer .tdoUnknown).toNat % 65536)) (s.answered .tdoUnknown))) ∧
    (Direct .jtagRstat s →
      exec .jtagRstat s = .next (afterReadOf .jtagRstat (if s.jtag.busy then 1#32 else 0#32) s))

/-- R341: the completion of a frame of up to 16 bits: clock by clock TDO is drawn in the TAP's state, recorded, and the TAP moves
on TMS; the captured bits go to the TDO register with the bits above the count 0, and the unit is idle. -/
def Obligations.JtagFrameCompletes : Prop :=
  ∀ s : State, s.jtag.busy = true → s.jtag.pending.count ≤ 16 →
    let p := s.jtag.pending
    let at' (i : Nat) : TapState := tapRun s.tap ((List.range i).map (fun j => p.tms.getLsbD j))
    enabled .jtag s = true ∧
    ∃ (a : Nat → RegVal) (out : Half),
      agentStep .jtag s = .next { s with
        jtag := { s.jtag with tdo := out, tdoKnown := true, busy := false }
        tap := at' p.count
        env := ⟨s.env.answers.drop p.count, s.env.drawn + p.count⟩
        history := s.history ++ (List.range p.count).flatMap (fun i =>
          [.answer (.tdo (at' i) (p.tdi.getLsbD i)) (a i),
           .jtagClock (at' i) (p.tms.getLsbD i) (p.tdi.getLsbD i) ((a i).getLsbD 0)]) } ∧
      (∀ i < p.count, i < s.env.answers.length → s.env.answers[i]? = some (a i)) ∧
      ∀ i < 16, out.getLsbD i = (decide (i < p.count) && (a i).getLsbD 0)

/-- R341, R345, R346: five clocks with TMS 1 reset the TAP from every state, and every entry of the default TMS table leads from
each TAP state its source stands for to one its target stands for. -/
def Obligations.TapTables : Prop :=
  (∀ t : TapState, tapRun t [true, true, true, true, true] = .testLogicReset) ∧
  (∀ e ∈ Config.modelTmsTable, ∀ t : TapState, JtagState.covers e.src t = true → JtagState.covers e.dst (tapRun t (tmsStream e)) = true)

/-! ## The host operations -/

/-- 48_host.md, the poll (that a poll of a read outside its table of bounds may expire is the model's reading, DEDUCED, log entry 9):
a poll follows a read; it goes on when the bit of the last result has the polarity asked for; otherwise it steps back to the read,
or, for a poll with a bound that has expired, ends the run with `Timeout`. -/
def Obligations.HostPoll : Prop :=
  ∀ (k : Nat) (p : Bool) (s : State),
    encode (.hostPoll k p) = mce 15 0 (k + 32 * p.toNat) 0 ∧
    ((∀ w r, s.host.pc ≠ 0 → s.host.program[s.host.pc - 1]? = some w → decode w = some r → r.isRead = false) →
      exec (.hostPoll k p) s = .fault .hostPoll) ∧
    (∀ w r, s.host.pc ≠ 0 → s.host.program[s.host.pc - 1]? = some w → decode w = some r → r.isRead = true →
      s.cfg.regOrder = .inOrder →
      (s.host.lastKnown = false → exec (.hostPoll k p) s = .fault (.unwritten 402)) ∧
      (s.host.lastKnown = true → s.host.last.getLsbD k = p →
        exec (.hostPoll k p) s = .next { s with host := afterWord s.host }) ∧
      (s.host.lastKnown = true → s.host.last.getLsbD k ≠ p → r = .spi2Rctrl →
        exec (.hostPoll k p) s = .next { s with host := { s.host with pc := s.host.pc - 1 } }) ∧
      (s.host.lastKnown = true → s.host.last.getLsbD k ≠ p → r ≠ .spi2Rctrl →
        exec (.hostPoll k p) s = .next { s.answered .pollExpired with
          host := if (s.nextAnswer .pollExpired).getLsbD 0 then { s.host with status := some .timeout }
            else { s.host with pc := s.host.pc - 1 } }))

/-- R404, R405: a check goes on when the bit of the last result has the polarity asked for and otherwise ends the run with its
status; a halt ends the run with its status; the codes 7 to 15 fault. -/
def Obligations.HostCheckAndHalt : Prop :=
  ∀ (k : Nat) (p : Bool) (c : Nat) (s : State), s.cfg.regOrder = .inOrder →
    let codes : List Status := [.ok, .invalidArgument, .invalidOperation, .invalidState, .deviceIO, .timeout, .noAck]
    encode (.hostCheck k p c) = mce 15 1 (k + 32 * p.toNat) c ∧ encode (.hostHalt c) = mce 15 2 0 c ∧
    (6 < c → exec (.hostCheck k p c) s = .fault (.illegal 404) ∧ exec (.hostHalt c) s = .fault (.illegal 405)) ∧
    (∀ st, codes[c]? = some st →
      (s.host.lastKnown = false → exec (.hostCheck k p c) s = .fault (.unwritten 404)) ∧
      (s.host.lastKnown = true → s.host.last.getLsbD k = p →
        exec (.hostCheck k p c) s = .next { s with host := afterWord s.host }) ∧
      (s.host.lastKnown = true → s.host.last.getLsbD k ≠ p →
        exec (.hostCheck k p c) s = .next { s with host := { s.host with status := some st } }) ∧
      exec (.hostHalt c) s = .next { s with host := { s.host with status := some st } })

/-- R406, R407 (the fence under posted writes is the model's reading, log entry 6): in `InOrder` both fences are no-ops that are
recorded; with posted writes a barrier waits for every write, and a back-to-back fence makes the next register access wait for the
write of the word before. -/
def Obligations.HostFences : Prop :=
  (encode .hostBarrier = mce 15 3 0 0 ∧ encode .hostB2b = mce 15 4 0 0) ∧
  ∀ s : State,
    (s.cfg.regOrder = .inOrder →
      exec .hostBarrier s = .next { s with host := afterWord s.host, history := s.history ++ [.barrier] } ∧
      exec .hostB2b s = .next { s with host := afterWord s.host, history := s.history ++ [.b2b] }) ∧
    (s.cfg.regOrder = .postedUntilBarrier →
      (s.path.posted ≠ [] → accepts .hostBarrier s = false ∧ exec .hostBarrier s = .next s) ∧
      (s.path.posted = [] → exec .hostBarrier s = .next { s with
        host := afterWord s.host
        path := { s.path with prevWrite := none, fence := none }
        history := s.history ++ [.barrier] }) ∧
      exec .hostB2b s = .next { s with
        host := afterWord s.host
        path := { s.path with fence := s.path.prevWrite, prevWrite := none }
        history := s.history ++ [.b2b] } ∧
      (∀ i, i.isRead = true → (accepts i s = false ↔ ∃ n, s.path.fence = some n ∧ ∃ e ∈ s.path.posted, e.id = n)))


/-! ## The whole machine -/

/-- 70_reset_and_hazards.md, the table of the reset state, which the spec collects from 10_state.md, for the host agent of every
lock domain (R411): every field has its reset value; a field the table calls unknown has no known value, and a field it calls a draw
has the value the environment draws. -/
def Obligations.ResetState : Prop :=
  ∀ (c : Config) (d : ResetDraws),
    let s := State.resetWith c d
    s.cfg = c ∧
    (s.i2c.preLoKnown = false ∧ s.i2c.preHiKnown = false ∧ s.i2c.enKnown = false ∧ s.i2c.txKnown = false ∧
      s.i2c.rx = none ∧ s.i2c.tip = false ∧ s.i2c.pending = none ∧ s.i2c.busy = d.busy ∧ s.i2c.rxack = d.rxack) ∧
    (s.bpi.cmdq = [] ∧ s.bpi.rdq = [] ∧ s.bpi.addrKnown = false ∧ s.bpi.csKnown = false ∧ s.bpi.waiting = false ∧
      s.bpi.burstLeft = 0 ∧ s.bpi.primed = 0) ∧
    (s.cpld.bankRegKnown = false ∧ s.cpld.bankEff = d.bankEff ∧ s.cpld.busy = d.cpldBusy) ∧
    (s.spi2.ctrlKnown = false ∧ s.spi2.accq = [] ∧ s.spi2.rdq = [] ∧ s.spi2.txdKnown = false ∧
      s.spi2.dummyDone = false ∧ s.spi2.fresh = true) ∧
    (s.spid.ctrlKnown = false ∧ s.spid.fselKnown = false ∧ s.host.chipSelected = false) ∧
    (s.jtag.prescKnown = false ∧ s.jtag.tdoKnown = false ∧ s.jtag.busy = false ∧ s.tap = d.tap ∧
      s.host.jtagState = .invalid ∧ s.host.scratch = ⟨[], []⟩) ∧
    (s.host.activeBus = none ∧ s.host.selectedBank = 0xFF#8 ∧ s.host.cursorKnown = false ∧
      (∀ k : Controller, (s.host.burst k).isOpen = false) ∧ s.host.pc = 0 ∧ s.host.lastKnown = false) ∧
    (s.others.length = c.otherDomains.length ∧ ∀ h ∈ s.others, h.host = s.host ∧ h.path = s.path)

/-- The invariant holds after reset, whatever the parameters and the draws; `State.reset` is one such state, with the parameters of
log entry 2, which are in the ranges R7 gives, and the draws of log entry 4. -/
def Obligations.InvReset : Prop :=
  (∀ (c : Config) (d : ResetDraws), Inv (State.resetWith c d)) ∧
  State.reset = State.resetWith Config.vectors ResetDraws.named ∧ Config.vectors.wf = true

/-- Every step keeps the invariant, from every state that has it, whichever agent steps and whatever is answered. -/
def Obligations.InvStep : Prop := ∀ s t : State, step s = .next t → Inv s → Inv t

/-- 00_scope.md: a parameter never changes, and the history only grows, whichever agent steps. -/
def Obligations.ConfigKept : Prop := ∀ s t : State, step s = .next t → t.cfg = s.cfg ∧ s.history <+: t.history

/-- 20_memory.md, the independence of the units, for writes: a word of a host program changes its own unit only, and of the host
only `H.pc`, `H.last` and `H.status`; a unit step changes its own unit only, and no host field. R411, R441: a step of the host agent
of another lock domain changes no unit outside its domain and no other host agent. -/
def Obligations.UnitsWriteOwnState : Prop :=
  ∀ s t : State,
    (∀ i, exec i s = .next t →
      t = { s with
        i2c := if i.unit = .i2c then t.i2c else s.i2c
        bpi := if i.unit = .bpi then t.bpi else s.bpi
        cpld := if i.unit = .bpi then t.cpld else s.cpld
        spi2 := if i.unit = .spi2 then t.spi2 else s.spi2
        spid := if i.unit = .spid then t.spid else s.spid
        jtag := if i.unit = .jtag then t.jtag else s.jtag
        path := t.path
        host := { s.host with
          pc := t.host.pc, last := t.host.last, lastKnown := t.host.lastKnown, status := t.host.status }
        env := t.env
        history := t.history }) ∧
    (agentStep .i2c s = .next t → t = { s with i2c := t.i2c, env := t.env, history := t.history }) ∧
    (agentStep .bpi s = .next t → t = { s with bpi := t.bpi, env := t.env, history := t.history }) ∧
    (agentStep .cpld s = .next t → t = { s with cpld := t.cpld, env := t.env, history := t.history }) ∧
    (agentStep .spi2 s = .next t → t = { s with spi2 := t.spi2, env := t.env, history := t.history }) ∧
    (agentStep .jtag s = .next t → t = { s with jtag := t.jtag, tap := t.tap, env := t.env, history := t.history }) ∧
    (∀ d us, enabled (.foreign d) s = true → agentStep (.foreign d) s = .next t → s.cfg.otherDomains[d]? = some us →
      t.cfg = s.cfg ∧ t.host = s.host ∧ t.path = s.path ∧ t.sched = s.sched ∧
      t.others.length = s.others.length ∧ (∀ e, e ≠ d → t.others[e]? = s.others[e]?) ∧
      (.i2c ∉ us → t.i2c = s.i2c) ∧ (.bpi ∉ us → t.bpi = s.bpi ∧ t.cpld = s.cpld) ∧
      (.spi2 ∉ us → t.spi2 = { s.spi2 with dummyDone := t.spi2.dummyDone }) ∧ (.spid ∉ us → t.spid = s.spid) ∧
      (.jtag ∉ us → t.jtag = s.jtag ∧ t.tap = s.tap))

/-- 20_memory.md, the independence of the units, for reads: what a word or a unit step does is the same whatever another unit
holds, and leaves that as it is. -/
def Obligations.UnitsReadOwnState : Prop :=
  ∀ (k : UnitId) (f : State → Host.Outcome State Fault Refusal),
    ((∃ i : Instr, i.unit = k ∧ f = exec i) ∨ (k = .i2c ∧ f = agentStep .i2c) ∨
      (k = .bpi ∧ (f = agentStep .bpi ∨ f = agentStep .cpld)) ∨ (k = .spi2 ∧ f = agentStep .spi2) ∨
      (k = .jtag ∧ f = agentStep .jtag)) →
    ∀ s : State,
      (k ≠ .i2c → ∀ u, f { s with i2c := u } = mapNext (fun t => { t with i2c := u }) (f s)) ∧
      (k ≠ .bpi → ∀ u v, f { s with bpi := u, cpld := v } = mapNext (fun t => { t with bpi := u, cpld := v }) (f s)) ∧
      (k ≠ .spi2 → ∀ u, f { s with spi2 := u } = mapNext (fun t => { t with spi2 := u }) (f s)) ∧
      (k ≠ .spid → ∀ u, f { s with spid := u } = mapNext (fun t => { t with spid := u }) (f s)) ∧
      (k ≠ .jtag → ∀ u v, f { s with jtag := u, tap := v } = mapNext (fun t => { t with jtag := u, tap := v }) (f s))

/-- 20_memory.md, reads with side effects: an accepted read takes the head out of the BPI read FIFO if it is `BPI.RDATA` and out
of the SPI-v2 read FIFO if it is `SPI2.RDATA`, and changes nothing else of any unit. -/
def Obligations.ReadSideEffects : Prop :=
  ∀ (i : Instr) (s t : State), i.isRead = true → accepts i s = true → exec i s = .next t →
    t = { s with
      bpi := { s.bpi with rdq := if i = .bpiRdata then s.bpi.rdq.tail else s.bpi.rdq }
      spi2 := { s.spi2 with rdq := if i = .spi2Rdata then s.spi2.rdq.tail else s.spi2.rdq }
      path := t.path
      host := { afterWord s.host with last := t.host.last, lastKnown := true }
      env := t.env
      history := t.history }

/-! ## Driver calls -/

/-- 48_host.md, driver mode: a block operation of a procedure has the effect that the same word has in a host program, but for
`H.pc` and the end of the program; it waits where that word waits and faults where that word faults. -/
def Obligations.DriverOpMatchesProgram : Prop :=
  ∀ (i : Instr) (rest : List Micro) (s : State), i.isHost = false →
    s.host.drv.stack = .op i :: rest → s.host.drv.status = .ok →
    let popped : State := { s with host := { s.host with drv := { s.host.drv with stack := rest } } }
    (accepts i s = false → driverStep s = .next s) ∧
    (accepts i s = true → exec i popped = mapNext (fun t => { t with host := afterWord t.host }) (driverStep s))

/-- 41_burst.md, the entry of `burst`: its checks, in their order; a refused burst opens nothing and issues nothing. -/
def Obligations.BurstRefusals : Prop :=
  ∀ (c : Controller) (hdr : BurstHeader) (buf : List Half) (addr : Option Nat) (rest : List Micro) (s : State),
    s.host.drv.stack = .run (.burstEntry c hdr buf addr) :: rest → s.host.drv.status = .ok →
    let ends (st : Status) (ms : List Micro) : Prop :=
      driverStep s = .next { s with host := { s.host with drv := { s.host.drv with
        stack := ms ++ rest, status := st, ctl := c, hdr := hdr, buf := buf, addr := addr } } }
    let bad : Prop := 3 < hdr.type.toNat ∨
      (∃ k, hdr.flags.getLsbD k = true ∧ k ∉ usedFlagBits s.cfg.flagBits) ∨
      6 ≤ hdr.flags.toNat / 2 ^ s.cfg.flagBits.jstateLo % 8
    let noCommands : Prop := hdr.type = 3#32 ∧ c.unit ∉ s.cfg.commandUnits
    let empty : Prop := hdr.type.toNat < 2 ∧ hdr.length = 0#32
    ((s.host.burst c).isOpen = true → driverStep s = .fault (.burstReentrant 121)) ∧
    ((s.host.burst c).isOpen = false →
      (bad → ends .invalidArgument []) ∧
      (¬bad → noCommands → ends .invalidOperation []) ∧
      (¬bad → ¬noCommands → empty → ends .invalidArgument []) ∧
      (¬bad → ¬noCommands → ¬empty → ends .ok
        (match c with
          | .i2cBank b => [.run (.i2cActivate b), .run .burstOpen]
          | _ => [.run .burstOpen])))

/-- 41_burst.md, the shot partition: the shots cover the units in order, each but the last full, the last with 1 to `M` units; the
write loop issues exactly them, marks the first and the last, and waits for the write queue of size `Q` after every `Q`-th shot and,
where shots are left over, at the end. -/
def Obligations.ShotPartition : Prop :=
  (∀ n m : Nat, 1 ≤ n → 1 ≤ m →
    (shotCount n m - 1) * m < n ∧ n ≤ shotCount n m * m ∧
    ∀ k < shotCount n m,
      k * m + shotSize n m k = min ((k + 1) * m) n ∧
      (k + 1 < shotCount n m → shotSize n m k = m) ∧
      (k + 1 = shotCount n m → 1 ≤ shotSize n m k ∧ shotSize n m k ≤ m ∧ k * m + shotSize n m k = n)) ∧
  (∀ (k : Nat) (s : State),
    let c := s.host.drv.ctl
    let n := shotCount s.burstUnits (maxWriteShot s.cfg c)
    let q := (s.cfg.sizes c.unit).writeQueue
    ∃ t, runWriteLoop k s = .ok t ∧
      (k < n → (t.host.burst c).isFirst = decide (k = 0) ∧ (t.host.burst c).isLast = decide (k + 1 = n) ∧
        t.host.drv.stack = .run (.writeShot k) ::
          ((if (k + 1) % q = 0 then [Micro.run .waitWriteQueue] else []) ++
            .run (.writeLoop (k + 1)) :: s.host.drv.stack)) ∧
      (n ≤ k → t.host.drv.stack =
        (if n % q ≠ 0 then [Micro.run .waitWriteQueue] else []) ++ s.host.drv.stack))

/-- 60_exceptions.md, the abort path: after a failure what a call still had to do is passed over, except the abort handler, after
which the failing status stands again; without a failure the handler does not run. -/
def Obligations.AbortKeepsStatus : Prop :=
  ∀ (p : Proc) (rest : List Micro) (s : State),
    let at' (ms : List Micro) (st : Status) : State := { s with host := { s.host with drv := { s.host.drv with
      stack := ms ++ rest, status := st } } }
    (∀ st, st ≠ .ok → (∀ i, driverStep (at' [.op i] st) = .next (at' [] st)) ∧
      driverStep (at' [.run p] st) = .next (at' [] st) ∧
      driverStep (at' [.onFail p] st) = .next (at' [.run p, .restore st] .ok)) ∧
    driverStep (at' [.onFail p] .ok) = .next (at' [] .ok) ∧
    (∀ st now, driverStep (at' [.restore st] now) = .next (at' [] st)) ∧
    (∀ st now, driverStep (at' [.always p] st) = .next (at' [.run p, .combine st] .ok) ∧
      driverStep (at' [.combine st] now) = .next (at' [] (if st = .ok then now else st)))

/-- 42_i2c.md, activation of a bank that is not active, nothing stepping in between (that each point of a procedure is a host step
of its own, which makes them fourteen, is DEDUCED, log entry 15): seven accesses, in their order, after which the bank is active,
the core enabled and the prescaler the one of the bank's frequency; a bus found held is then stopped. -/
def Obligations.ActivationProgramsBank : Prop :=
  ∀ (b : Nat) (p : Nat) (rest : List Micro) (s : State),
    s.host.drv.stack = .run (.i2cActivate b) :: rest → s.host.drv.status = .ok →
    s.cfg.regOrder = .inOrder → (∀ i : Instr, i.bank? = some b → accessFault s.cfg i = none) →
    s.host.activeBus ≠ some b → bus2core (bankFrequency s.cfg b) s.cfg.i2cFwClock = some p →
    ∃ t : State, hostRun 14 s = some t ∧
      t.host.activeBus = some b ∧ t.host.drv.status = .ok ∧
      t.i2c.enKnown = true ∧ t.i2c.en = true ∧ t.i2c.preLoKnown = true ∧ t.i2c.preHiKnown = true ∧
      t.i2c.preLo.toNat + 256 * t.i2c.preHi.toNat = p ∧
      accesses t.history = accesses s.history ++
        [.access (.i2cWctrl b false) 0#32, .access (.i2cWpreLo b t.i2c.preLo) (t.i2c.preLo.setWidth 32),
          .access (.i2cWpreHi b t.i2c.preHi) (t.i2c.preHi.setWidth 32), .access (.i2cRpreLo b) (t.i2c.preLo.setWidth 32),
          .access (.i2cRpreHi b) (t.i2c.preHi.setWidth 32), .access (.i2cWctrl b true) 1#32,
          .access (.i2cRstat b) (i2cStatus t.i2c b)] ∧
      t.host.drv.stack =
        (if t.i2c.busy[b]? = some true then
          [.op (.i2cStop b), .op (.i2cRstat b), .run (.pollTest (.i2cRstat b) 0 false true)] else []) ++
          .onFail .i2cForget :: rest

/-- 42_i2c.md: activating a bank the core does not have is `InvalidArgument`; activating the active bank issues nothing. -/
def Obligations.ActivationShortcuts : Prop :=
  ∀ (b : Nat) (rest : List Micro) (s : State),
    s.host.drv.stack = .run (.i2cActivate b) :: rest → s.host.drv.status = .ok →
    (s.cfg.i2cNumBanks ≤ b → driverStep s = .next { s with host := { s.host with drv := { s.host.drv with
      stack := rest, status := .invalidArgument } } }) ∧
    (b < s.cfg.i2cNumBanks → s.host.activeBus = some b → driverStep s = .next { s with host := { s.host with drv := {
      s.host.drv with stack := rest } } })

/-- 46_jtag.md, `set_state` with the default TMS table (that each point of a procedure is a host step of its own is DEDUCED, log entry
15): from a tracked state that the TAP agrees with, one frame takes the TAP to a
state the target stands for, and the tracking follows it. -/
def Obligations.SetStateReachesTarget : Prop :=
  ∀ (target : JtagState) (rest : List Micro) (s : State),
    s.host.drv.stack = .run (.jtagSetState target) :: rest → s.host.drv.status = .ok →
    target ≠ .invalid → target ≠ s.host.jtagState → s.cfg.jtagTmsTable = Config.modelTmsTable →
    s.cfg.regOrder = .inOrder → (∀ i : Instr, i.unit = .jtag → accessFault s.cfg i = none) →
    s.jtag.busy = false → JtagState.covers s.host.jtagState s.tap = true →
    ∃ u t : State, hostRun 2 s = some u ∧ enabled .jtag u = true ∧ hostRun 4 (jtagStep u) = some t ∧
      t.host.jtagState = target ∧ JtagState.covers target t.tap = true ∧
      t.jtag.busy = false ∧ t.host.drv.stack = rest ∧ t.host.drv.status = .ok

/-- 46_jtag.md, the prescaler of a requested frequency (R356): the least one at which the halved clock, shifted right by the prescaler
and rounded down to whole Hz, is not above the request, or the largest there is. The exact test clock of R343 may be above the request
by less than 1 Hz. -/
def Obligations.PrescalerSearch : Prop :=
  ∀ (c : Config) (f : Nat),
    let w := 2 ^ c.jtagPrescalerBits - 1
    let n := jtagPrescFor c f
    n ≤ w ∧ (∀ m < n, f < c.jtagClk / 2 / 2 ^ m) ∧ (n < w → c.jtagClk / 2 / 2 ^ n ≤ f)
end

