-- ==== Sys2Proof/Laws/State.lean ====
section
/-! SUPPORT. What each update of the state leaves as it was and what it sets: one lemma per field per update, so that no proof
unfolds a record update. -/

namespace Sys2Proof.Machine

variable (s : State)

/-- The register path after a word that is not a write: under posted writes no write is left for `HOST.B2B` to order, and a fence
is used up (R407). -/
def afterNonWrite : RegPath :=
  match s.cfg.regOrder with
  | .inOrder => s.path
  | .postedUntilBarrier => { s.path with prevWrite := none, fence := none }

/-! ### `State.record` -/

@[simp] theorem State.record_cfg (e : Event) : (s.record e).cfg = s.cfg := rfl
@[simp] theorem State.record_i2c (e : Event) : (s.record e).i2c = s.i2c := rfl
@[simp] theorem State.record_bpi (e : Event) : (s.record e).bpi = s.bpi := rfl
@[simp] theorem State.record_cpld (e : Event) : (s.record e).cpld = s.cpld := rfl
@[simp] theorem State.record_spi2 (e : Event) : (s.record e).spi2 = s.spi2 := rfl
@[simp] theorem State.record_spid (e : Event) : (s.record e).spid = s.spid := rfl
@[simp] theorem State.record_jtag (e : Event) : (s.record e).jtag = s.jtag := rfl
@[simp] theorem State.record_tap (e : Event) : (s.record e).tap = s.tap := rfl
@[simp] theorem State.record_path (e : Event) : (s.record e).path = s.path := rfl
@[simp] theorem State.record_others (e : Event) : (s.record e).others = s.others := rfl
@[simp] theorem State.record_host (e : Event) : (s.record e).host = s.host := rfl
@[simp] theorem State.record_env (e : Event) : (s.record e).env = s.env := rfl
@[simp] theorem State.record_sched (e : Event) : (s.record e).sched = s.sched := rfl
@[simp] theorem State.record_history (e : Event) : (s.record e).history = s.history ++ [e] := rfl

/-! ### `State.answered` -/

@[simp] theorem State.answered_cfg (q : Oracle) : (s.answered q).cfg = s.cfg := rfl
@[simp] theorem State.answered_i2c (q : Oracle) : (s.answered q).i2c = s.i2c := rfl
@[simp] theorem State.answered_bpi (q : Oracle) : (s.answered q).bpi = s.bpi := rfl
@[simp] theorem State.answered_cpld (q : Oracle) : (s.answered q).cpld = s.cpld := rfl
@[simp] theorem State.answered_spi2 (q : Oracle) : (s.answered q).spi2 = s.spi2 := rfl
@[simp] theorem State.answered_spid (q : Oracle) : (s.answered q).spid = s.spid := rfl
@[simp] theorem State.answered_jtag (q : Oracle) : (s.answered q).jtag = s.jtag := rfl
@[simp] theorem State.answered_tap (q : Oracle) : (s.answered q).tap = s.tap := rfl
@[simp] theorem State.answered_path (q : Oracle) : (s.answered q).path = s.path := rfl
@[simp] theorem State.answered_others (q : Oracle) : (s.answered q).others = s.others := rfl
@[simp] theorem State.answered_host (q : Oracle) : (s.answered q).host = s.host := rfl
@[simp] theorem State.answered_env (q : Oracle) : (s.answered q).env = ⟨s.env.answers.tail, s.env.drawn + 1⟩ := rfl
@[simp] theorem State.answered_sched (q : Oracle) : (s.answered q).sched = s.sched := rfl
@[simp] theorem State.answered_history (q : Oracle) : (s.answered q).history = s.history ++ [.answer q (s.nextAnswer q)] := rfl

/-! ### `State.setLast` -/

@[simp] theorem State.setLast_cfg (v : RegVal) : (s.setLast v).cfg = s.cfg := rfl
@[simp] theorem State.setLast_i2c (v : RegVal) : (s.setLast v).i2c = s.i2c := rfl
@[simp] theorem State.setLast_bpi (v : RegVal) : (s.setLast v).bpi = s.bpi := rfl
@[simp] theorem State.setLast_cpld (v : RegVal) : (s.setLast v).cpld = s.cpld := rfl
@[simp] theorem State.setLast_spi2 (v : RegVal) : (s.setLast v).spi2 = s.spi2 := rfl
@[simp] theorem State.setLast_spid (v : RegVal) : (s.setLast v).spid = s.spid := rfl
@[simp] theorem State.setLast_jtag (v : RegVal) : (s.setLast v).jtag = s.jtag := rfl
@[simp] theorem State.setLast_tap (v : RegVal) : (s.setLast v).tap = s.tap := rfl
@[simp] theorem State.setLast_path (v : RegVal) : (s.setLast v).path = s.path := rfl
@[simp] theorem State.setLast_others (v : RegVal) : (s.setLast v).others = s.others := rfl
@[simp] theorem State.setLast_host (v : RegVal) : (s.setLast v).host = { s.host with last := v, lastKnown := true } := rfl
@[simp] theorem State.setLast_env (v : RegVal) : (s.setLast v).env = s.env := rfl
@[simp] theorem State.setLast_sched (v : RegVal) : (s.setLast v).sched = s.sched := rfl
@[simp] theorem State.setLast_history (v : RegVal) : (s.setLast v).history = s.history := rfl

/-! ### `State.advance` -/

@[simp] theorem State.advance_cfg : (s.advance).cfg = s.cfg := rfl
@[simp] theorem State.advance_i2c : (s.advance).i2c = s.i2c := rfl
@[simp] theorem State.advance_bpi : (s.advance).bpi = s.bpi := rfl
@[simp] theorem State.advance_cpld : (s.advance).cpld = s.cpld := rfl
@[simp] theorem State.advance_spi2 : (s.advance).spi2 = s.spi2 := rfl
@[simp] theorem State.advance_spid : (s.advance).spid = s.spid := rfl
@[simp] theorem State.advance_jtag : (s.advance).jtag = s.jtag := rfl
@[simp] theorem State.advance_tap : (s.advance).tap = s.tap := rfl
@[simp] theorem State.advance_path : (s.advance).path = s.path := rfl
@[simp] theorem State.advance_others : (s.advance).others = s.others := rfl
@[simp] theorem State.advance_host : (s.advance).host = { s.host with pc := s.host.pc + 1, status := if s.host.pc + 1 = s.host.program.length then some .ok else s.host.status } := rfl
@[simp] theorem State.advance_env : (s.advance).env = s.env := rfl
@[simp] theorem State.advance_sched : (s.advance).sched = s.sched := rfl
@[simp] theorem State.advance_history : (s.advance).history = s.history := rfl

/-! ### `State.endRun` -/

@[simp] theorem State.endRun_cfg (st : Status) : (s.endRun st).cfg = s.cfg := rfl
@[simp] theorem State.endRun_i2c (st : Status) : (s.endRun st).i2c = s.i2c := rfl
@[simp] theorem State.endRun_bpi (st : Status) : (s.endRun st).bpi = s.bpi := rfl
@[simp] theorem State.endRun_cpld (st : Status) : (s.endRun st).cpld = s.cpld := rfl
@[simp] theorem State.endRun_spi2 (st : Status) : (s.endRun st).spi2 = s.spi2 := rfl
@[simp] theorem State.endRun_spid (st : Status) : (s.endRun st).spid = s.spid := rfl
@[simp] theorem State.endRun_jtag (st : Status) : (s.endRun st).jtag = s.jtag := rfl
@[simp] theorem State.endRun_tap (st : Status) : (s.endRun st).tap = s.tap := rfl
@[simp] theorem State.endRun_path (st : Status) : (s.endRun st).path = s.path := rfl
@[simp] theorem State.endRun_others (st : Status) : (s.endRun st).others = s.others := rfl
@[simp] theorem State.endRun_host (st : Status) : (s.endRun st).host = { s.host with status := some st } := rfl
@[simp] theorem State.endRun_env (st : Status) : (s.endRun st).env = s.env := rfl
@[simp] theorem State.endRun_sched (st : Status) : (s.endRun st).sched = s.sched := rfl
@[simp] theorem State.endRun_history (st : Status) : (s.endRun st).history = s.history := rfl

/-! ### `State.post` -/

@[simp] theorem State.post_cfg (i : Instr) : (s.post i).cfg = s.cfg := rfl
@[simp] theorem State.post_i2c (i : Instr) : (s.post i).i2c = s.i2c := rfl
@[simp] theorem State.post_bpi (i : Instr) : (s.post i).bpi = s.bpi := rfl
@[simp] theorem State.post_cpld (i : Instr) : (s.post i).cpld = s.cpld := rfl
@[simp] theorem State.post_spi2 (i : Instr) : (s.post i).spi2 = s.spi2 := rfl
@[simp] theorem State.post_spid (i : Instr) : (s.post i).spid = s.spid := rfl
@[simp] theorem State.post_jtag (i : Instr) : (s.post i).jtag = s.jtag := rfl
@[simp] theorem State.post_tap (i : Instr) : (s.post i).tap = s.tap := rfl
@[simp] theorem State.post_path (i : Instr) : (s.post i).path = ⟨s.path.posted ++ [⟨s.path.nextId, i, s.path.fence⟩], s.path.nextId + 1, some s.path.nextId, none⟩ := rfl
@[simp] theorem State.post_others (i : Instr) : (s.post i).others = s.others := rfl
@[simp] theorem State.post_host (i : Instr) : (s.post i).host = s.host := rfl
@[simp] theorem State.post_env (i : Instr) : (s.post i).env = s.env := rfl
@[simp] theorem State.post_sched (i : Instr) : (s.post i).sched = s.sched := rfl
@[simp] theorem State.post_history (i : Instr) : (s.post i).history = s.history := rfl

/-! ### `State.recordWrite` -/

@[simp] theorem State.recordWrite_cfg (i : Instr) : (s.recordWrite i).cfg = s.cfg := rfl
@[simp] theorem State.recordWrite_i2c (i : Instr) : (s.recordWrite i).i2c = s.i2c := rfl
@[simp] theorem State.recordWrite_bpi (i : Instr) : (s.recordWrite i).bpi = s.bpi := rfl
@[simp] theorem State.recordWrite_cpld (i : Instr) : (s.recordWrite i).cpld = s.cpld := rfl
@[simp] theorem State.recordWrite_spi2 (i : Instr) : (s.recordWrite i).spi2 = s.spi2 := rfl
@[simp] theorem State.recordWrite_spid (i : Instr) : (s.recordWrite i).spid = s.spid := rfl
@[simp] theorem State.recordWrite_jtag (i : Instr) : (s.recordWrite i).jtag = s.jtag := rfl
@[simp] theorem State.recordWrite_tap (i : Instr) : (s.recordWrite i).tap = s.tap := rfl
@[simp] theorem State.recordWrite_path (i : Instr) : (s.recordWrite i).path = s.path := rfl
@[simp] theorem State.recordWrite_others (i : Instr) : (s.recordWrite i).others = s.others := rfl
@[simp] theorem State.recordWrite_host (i : Instr) : (s.recordWrite i).host = s.host := rfl
@[simp] theorem State.recordWrite_env (i : Instr) : (s.recordWrite i).env = s.env := rfl
@[simp] theorem State.recordWrite_sched (i : Instr) : (s.recordWrite i).sched = s.sched := rfl
@[simp] theorem State.recordWrite_history (i : Instr) : (s.recordWrite i).history = s.history ++ [.access i (BitVec.ofNat 32 i.value)] := rfl

/-! ### `State.setBusy` -/

@[simp] theorem State.setBusy_cfg (b : Nat) (x : Bool) : (s.setBusy b x).cfg = s.cfg := rfl
@[simp] theorem State.setBusy_i2c (b : Nat) (x : Bool) : (s.setBusy b x).i2c = { s.i2c with busy := s.i2c.busy.setIfInBounds b x } := rfl
@[simp] theorem State.setBusy_bpi (b : Nat) (x : Bool) : (s.setBusy b x).bpi = s.bpi := rfl
@[simp] theorem State.setBusy_cpld (b : Nat) (x : Bool) : (s.setBusy b x).cpld = s.cpld := rfl
@[simp] theorem State.setBusy_spi2 (b : Nat) (x : Bool) : (s.setBusy b x).spi2 = s.spi2 := rfl
@[simp] theorem State.setBusy_spid (b : Nat) (x : Bool) : (s.setBusy b x).spid = s.spid := rfl
@[simp] theorem State.setBusy_jtag (b : Nat) (x : Bool) : (s.setBusy b x).jtag = s.jtag := rfl
@[simp] theorem State.setBusy_tap (b : Nat) (x : Bool) : (s.setBusy b x).tap = s.tap := rfl
@[simp] theorem State.setBusy_path (b : Nat) (x : Bool) : (s.setBusy b x).path = s.path := rfl
@[simp] theorem State.setBusy_others (b : Nat) (x : Bool) : (s.setBusy b x).others = s.others := rfl
@[simp] theorem State.setBusy_host (b : Nat) (x : Bool) : (s.setBusy b x).host = s.host := rfl
@[simp] theorem State.setBusy_env (b : Nat) (x : Bool) : (s.setBusy b x).env = s.env := rfl
@[simp] theorem State.setBusy_sched (b : Nat) (x : Bool) : (s.setBusy b x).sched = s.sched := rfl
@[simp] theorem State.setBusy_history (b : Nat) (x : Bool) : (s.setBusy b x).history = s.history := rfl

/-! ### `State.setEnable` -/

@[simp] theorem State.setEnable_cfg (e : Bool) : (s.setEnable e).cfg = s.cfg := rfl
@[simp] theorem State.setEnable_i2c (e : Bool) : (s.setEnable e).i2c = { s.i2c with en := e, enKnown := true } := rfl
@[simp] theorem State.setEnable_bpi (e : Bool) : (s.setEnable e).bpi = s.bpi := rfl
@[simp] theorem State.setEnable_cpld (e : Bool) : (s.setEnable e).cpld = s.cpld := rfl
@[simp] theorem State.setEnable_spi2 (e : Bool) : (s.setEnable e).spi2 = s.spi2 := rfl
@[simp] theorem State.setEnable_spid (e : Bool) : (s.setEnable e).spid = s.spid := rfl
@[simp] theorem State.setEnable_jtag (e : Bool) : (s.setEnable e).jtag = s.jtag := rfl
@[simp] theorem State.setEnable_tap (e : Bool) : (s.setEnable e).tap = s.tap := rfl
@[simp] theorem State.setEnable_path (e : Bool) : (s.setEnable e).path = s.path := rfl
@[simp] theorem State.setEnable_others (e : Bool) : (s.setEnable e).others = s.others := rfl
@[simp] theorem State.setEnable_host (e : Bool) : (s.setEnable e).host = s.host := rfl
@[simp] theorem State.setEnable_env (e : Bool) : (s.setEnable e).env = s.env := rfl
@[simp] theorem State.setEnable_sched (e : Bool) : (s.setEnable e).sched = s.sched := rfl
@[simp] theorem State.setEnable_history (e : Bool) : (s.setEnable e).history = s.history := rfl

/-! ### `State.endTransfer` -/

@[simp] theorem State.endTransfer_cfg : (s.endTransfer).cfg = s.cfg := rfl
@[simp] theorem State.endTransfer_i2c : (s.endTransfer).i2c = { s.i2c with pending := none, tip := false } := rfl
@[simp] theorem State.endTransfer_bpi : (s.endTransfer).bpi = s.bpi := rfl
@[simp] theorem State.endTransfer_cpld : (s.endTransfer).cpld = s.cpld := rfl
@[simp] theorem State.endTransfer_spi2 : (s.endTransfer).spi2 = s.spi2 := rfl
@[simp] theorem State.endTransfer_spid : (s.endTransfer).spid = s.spid := rfl
@[simp] theorem State.endTransfer_jtag : (s.endTransfer).jtag = s.jtag := rfl
@[simp] theorem State.endTransfer_tap : (s.endTransfer).tap = s.tap := rfl
@[simp] theorem State.endTransfer_path : (s.endTransfer).path = s.path := rfl
@[simp] theorem State.endTransfer_others : (s.endTransfer).others = s.others := rfl
@[simp] theorem State.endTransfer_host : (s.endTransfer).host = s.host := rfl
@[simp] theorem State.endTransfer_env : (s.endTransfer).env = s.env := rfl
@[simp] theorem State.endTransfer_sched : (s.endTransfer).sched = s.sched := rfl
@[simp] theorem State.endTransfer_history : (s.endTransfer).history = s.history := rfl

/-! ### `State.pushWord` -/

@[simp] theorem State.pushWord_cfg (w : Half) : (s.pushWord w).cfg = s.cfg := rfl
@[simp] theorem State.pushWord_i2c (w : Half) : (s.pushWord w).i2c = s.i2c := rfl
@[simp] theorem State.pushWord_bpi (w : Half) : (s.pushWord w).bpi = { s.bpi with rdq := s.bpi.rdq ++ [w] } := rfl
@[simp] theorem State.pushWord_cpld (w : Half) : (s.pushWord w).cpld = s.cpld := rfl
@[simp] theorem State.pushWord_spi2 (w : Half) : (s.pushWord w).spi2 = s.spi2 := rfl
@[simp] theorem State.pushWord_spid (w : Half) : (s.pushWord w).spid = s.spid := rfl
@[simp] theorem State.pushWord_jtag (w : Half) : (s.pushWord w).jtag = s.jtag := rfl
@[simp] theorem State.pushWord_tap (w : Half) : (s.pushWord w).tap = s.tap := rfl
@[simp] theorem State.pushWord_path (w : Half) : (s.pushWord w).path = s.path := rfl
@[simp] theorem State.pushWord_others (w : Half) : (s.pushWord w).others = s.others := rfl
@[simp] theorem State.pushWord_host (w : Half) : (s.pushWord w).host = s.host := rfl
@[simp] theorem State.pushWord_env (w : Half) : (s.pushWord w).env = s.env := rfl
@[simp] theorem State.pushWord_sched (w : Half) : (s.pushWord w).sched = s.sched := rfl
@[simp] theorem State.pushWord_history (w : Half) : (s.pushWord w).history = s.history := rfl

/-! ### `State.stepBack` -/

@[simp] theorem State.stepBack_cfg : (s.stepBack).cfg = s.cfg := rfl
@[simp] theorem State.stepBack_i2c : (s.stepBack).i2c = s.i2c := rfl
@[simp] theorem State.stepBack_bpi : (s.stepBack).bpi = s.bpi := rfl
@[simp] theorem State.stepBack_cpld : (s.stepBack).cpld = s.cpld := rfl
@[simp] theorem State.stepBack_spi2 : (s.stepBack).spi2 = s.spi2 := rfl
@[simp] theorem State.stepBack_spid : (s.stepBack).spid = s.spid := rfl
@[simp] theorem State.stepBack_jtag : (s.stepBack).jtag = s.jtag := rfl
@[simp] theorem State.stepBack_tap : (s.stepBack).tap = s.tap := rfl
@[simp] theorem State.stepBack_path : (s.stepBack).path = s.path := rfl
@[simp] theorem State.stepBack_others : (s.stepBack).others = s.others := rfl
@[simp] theorem State.stepBack_host : (s.stepBack).host = { s.host with pc := s.host.pc - 1 } := rfl
@[simp] theorem State.stepBack_env : (s.stepBack).env = s.env := rfl
@[simp] theorem State.stepBack_sched : (s.stepBack).sched = s.sched := rfl
@[simp] theorem State.stepBack_history : (s.stepBack).history = s.history := rfl

/-! ### `State.turnTaken` -/

@[simp] theorem State.turnTaken_cfg : (s.turnTaken).cfg = s.cfg := rfl
@[simp] theorem State.turnTaken_i2c : (s.turnTaken).i2c = s.i2c := rfl
@[simp] theorem State.turnTaken_bpi : (s.turnTaken).bpi = s.bpi := rfl
@[simp] theorem State.turnTaken_cpld : (s.turnTaken).cpld = s.cpld := rfl
@[simp] theorem State.turnTaken_spi2 : (s.turnTaken).spi2 = s.spi2 := rfl
@[simp] theorem State.turnTaken_spid : (s.turnTaken).spid = s.spid := rfl
@[simp] theorem State.turnTaken_jtag : (s.turnTaken).jtag = s.jtag := rfl
@[simp] theorem State.turnTaken_tap : (s.turnTaken).tap = s.tap := rfl
@[simp] theorem State.turnTaken_path : (s.turnTaken).path = s.path := rfl
@[simp] theorem State.turnTaken_others : (s.turnTaken).others = s.others := rfl
@[simp] theorem State.turnTaken_host : (s.turnTaken).host = s.host := rfl
@[simp] theorem State.turnTaken_env : (s.turnTaken).env = s.env := rfl
@[simp] theorem State.turnTaken_sched : (s.turnTaken).sched = ⟨s.sched.turns.tail, s.sched.chosen + 1⟩ := rfl
@[simp] theorem State.turnTaken_history : (s.turnTaken).history = s.history := rfl

/-! ### `State.dropPosted` -/

@[simp] theorem State.dropPosted_cfg (k : Nat) : (s.dropPosted k).cfg = s.cfg := rfl
@[simp] theorem State.dropPosted_i2c (k : Nat) : (s.dropPosted k).i2c = s.i2c := rfl
@[simp] theorem State.dropPosted_bpi (k : Nat) : (s.dropPosted k).bpi = s.bpi := rfl
@[simp] theorem State.dropPosted_cpld (k : Nat) : (s.dropPosted k).cpld = s.cpld := rfl
@[simp] theorem State.dropPosted_spi2 (k : Nat) : (s.dropPosted k).spi2 = s.spi2 := rfl
@[simp] theorem State.dropPosted_spid (k : Nat) : (s.dropPosted k).spid = s.spid := rfl
@[simp] theorem State.dropPosted_jtag (k : Nat) : (s.dropPosted k).jtag = s.jtag := rfl
@[simp] theorem State.dropPosted_tap (k : Nat) : (s.dropPosted k).tap = s.tap := rfl
@[simp] theorem State.dropPosted_path (k : Nat) : (s.dropPosted k).path = { s.path with posted := s.path.posted.eraseIdx k } := rfl
@[simp] theorem State.dropPosted_others (k : Nat) : (s.dropPosted k).others = s.others := rfl
@[simp] theorem State.dropPosted_host (k : Nat) : (s.dropPosted k).host = s.host := rfl
@[simp] theorem State.dropPosted_env (k : Nat) : (s.dropPosted k).env = s.env := rfl
@[simp] theorem State.dropPosted_sched (k : Nat) : (s.dropPosted k).sched = s.sched := rfl
@[simp] theorem State.dropPosted_history (k : Nat) : (s.dropPosted k).history = s.history := rfl

/-! ### `State.setDrv` -/

@[simp] theorem State.setDrv_cfg (d : Driver) : (s.setDrv d).cfg = s.cfg := rfl
@[simp] theorem State.setDrv_i2c (d : Driver) : (s.setDrv d).i2c = s.i2c := rfl
@[simp] theorem State.setDrv_bpi (d : Driver) : (s.setDrv d).bpi = s.bpi := rfl
@[simp] theorem State.setDrv_cpld (d : Driver) : (s.setDrv d).cpld = s.cpld := rfl
@[simp] theorem State.setDrv_spi2 (d : Driver) : (s.setDrv d).spi2 = s.spi2 := rfl
@[simp] theorem State.setDrv_spid (d : Driver) : (s.setDrv d).spid = s.spid := rfl
@[simp] theorem State.setDrv_jtag (d : Driver) : (s.setDrv d).jtag = s.jtag := rfl
@[simp] theorem State.setDrv_tap (d : Driver) : (s.setDrv d).tap = s.tap := rfl
@[simp] theorem State.setDrv_path (d : Driver) : (s.setDrv d).path = s.path := rfl
@[simp] theorem State.setDrv_others (d : Driver) : (s.setDrv d).others = s.others := rfl
@[simp] theorem State.setDrv_host (d : Driver) : (s.setDrv d).host = { s.host with drv := d } := rfl
@[simp] theorem State.setDrv_env (d : Driver) : (s.setDrv d).env = s.env := rfl
@[simp] theorem State.setDrv_sched (d : Driver) : (s.setDrv d).sched = s.sched := rfl
@[simp] theorem State.setDrv_history (d : Driver) : (s.setDrv d).history = s.history := rfl

/-! ### `State.push` -/

@[simp] theorem State.push_cfg (ms : List Micro) : (s.push ms).cfg = s.cfg := rfl
@[simp] theorem State.push_i2c (ms : List Micro) : (s.push ms).i2c = s.i2c := rfl
@[simp] theorem State.push_bpi (ms : List Micro) : (s.push ms).bpi = s.bpi := rfl
@[simp] theorem State.push_cpld (ms : List Micro) : (s.push ms).cpld = s.cpld := rfl
@[simp] theorem State.push_spi2 (ms : List Micro) : (s.push ms).spi2 = s.spi2 := rfl
@[simp] theorem State.push_spid (ms : List Micro) : (s.push ms).spid = s.spid := rfl
@[simp] theorem State.push_jtag (ms : List Micro) : (s.push ms).jtag = s.jtag := rfl
@[simp] theorem State.push_tap (ms : List Micro) : (s.push ms).tap = s.tap := rfl
@[simp] theorem State.push_path (ms : List Micro) : (s.push ms).path = s.path := rfl
@[simp] theorem State.push_others (ms : List Micro) : (s.push ms).others = s.others := rfl
@[simp] theorem State.push_host (ms : List Micro) : (s.push ms).host = { s.host with drv := { s.host.drv with stack := ms ++ s.host.drv.stack } } := rfl
@[simp] theorem State.push_env (ms : List Micro) : (s.push ms).env = s.env := rfl
@[simp] theorem State.push_sched (ms : List Micro) : (s.push ms).sched = s.sched := rfl
@[simp] theorem State.push_history (ms : List Micro) : (s.push ms).history = s.history := rfl

/-! ### `State.setStatus` -/

@[simp] theorem State.setStatus_cfg (st : Status) : (s.setStatus st).cfg = s.cfg := rfl
@[simp] theorem State.setStatus_i2c (st : Status) : (s.setStatus st).i2c = s.i2c := rfl
@[simp] theorem State.setStatus_bpi (st : Status) : (s.setStatus st).bpi = s.bpi := rfl
@[simp] theorem State.setStatus_cpld (st : Status) : (s.setStatus st).cpld = s.cpld := rfl
@[simp] theorem State.setStatus_spi2 (st : Status) : (s.setStatus st).spi2 = s.spi2 := rfl
@[simp] theorem State.setStatus_spid (st : Status) : (s.setStatus st).spid = s.spid := rfl
@[simp] theorem State.setStatus_jtag (st : Status) : (s.setStatus st).jtag = s.jtag := rfl
@[simp] theorem State.setStatus_tap (st : Status) : (s.setStatus st).tap = s.tap := rfl
@[simp] theorem State.setStatus_path (st : Status) : (s.setStatus st).path = s.path := rfl
@[simp] theorem State.setStatus_others (st : Status) : (s.setStatus st).others = s.others := rfl
@[simp] theorem State.setStatus_host (st : Status) : (s.setStatus st).host = { s.host with drv := { s.host.drv with status := st } } := rfl
@[simp] theorem State.setStatus_env (st : Status) : (s.setStatus st).env = s.env := rfl
@[simp] theorem State.setStatus_sched (st : Status) : (s.setStatus st).sched = s.sched := rfl
@[simp] theorem State.setStatus_history (st : Status) : (s.setStatus st).history = s.history := rfl

/-! ### `State.store` -/

@[simp] theorem State.store_cfg (n : Nat) (v : Half) : (s.store n v).cfg = s.cfg := rfl
@[simp] theorem State.store_i2c (n : Nat) (v : Half) : (s.store n v).i2c = s.i2c := rfl
@[simp] theorem State.store_bpi (n : Nat) (v : Half) : (s.store n v).bpi = s.bpi := rfl
@[simp] theorem State.store_cpld (n : Nat) (v : Half) : (s.store n v).cpld = s.cpld := rfl
@[simp] theorem State.store_spi2 (n : Nat) (v : Half) : (s.store n v).spi2 = s.spi2 := rfl
@[simp] theorem State.store_spid (n : Nat) (v : Half) : (s.store n v).spid = s.spid := rfl
@[simp] theorem State.store_jtag (n : Nat) (v : Half) : (s.store n v).jtag = s.jtag := rfl
@[simp] theorem State.store_tap (n : Nat) (v : Half) : (s.store n v).tap = s.tap := rfl
@[simp] theorem State.store_path (n : Nat) (v : Half) : (s.store n v).path = s.path := rfl
@[simp] theorem State.store_others (n : Nat) (v : Half) : (s.store n v).others = s.others := rfl
@[simp] theorem State.store_host (n : Nat) (v : Half) : (s.store n v).host = { s.host with drv := { s.host.drv with buf := storeAt s.host.drv.buf n v } } := rfl
@[simp] theorem State.store_env (n : Nat) (v : Half) : (s.store n v).env = s.env := rfl
@[simp] theorem State.store_sched (n : Nat) (v : Half) : (s.store n v).sched = s.sched := rfl
@[simp] theorem State.store_history (n : Nat) (v : Half) : (s.store n v).history = s.history := rfl

/-! ### `State.pop` -/

@[simp] theorem State.pop_cfg : (s.pop).cfg = s.cfg := rfl
@[simp] theorem State.pop_i2c : (s.pop).i2c = s.i2c := rfl
@[simp] theorem State.pop_bpi : (s.pop).bpi = s.bpi := rfl
@[simp] theorem State.pop_cpld : (s.pop).cpld = s.cpld := rfl
@[simp] theorem State.pop_spi2 : (s.pop).spi2 = s.spi2 := rfl
@[simp] theorem State.pop_spid : (s.pop).spid = s.spid := rfl
@[simp] theorem State.pop_jtag : (s.pop).jtag = s.jtag := rfl
@[simp] theorem State.pop_tap : (s.pop).tap = s.tap := rfl
@[simp] theorem State.pop_path : (s.pop).path = s.path := rfl
@[simp] theorem State.pop_others : (s.pop).others = s.others := rfl
@[simp] theorem State.pop_host : (s.pop).host = { s.host with drv := { s.host.drv with stack := s.host.drv.stack.tail } } := rfl
@[simp] theorem State.pop_env : (s.pop).env = s.env := rfl
@[simp] theorem State.pop_sched : (s.pop).sched = s.sched := rfl
@[simp] theorem State.pop_history : (s.pop).history = s.history := rfl

/-! ### `State.setActive` -/

@[simp] theorem State.setActive_cfg (b : Option Nat) : (s.setActive b).cfg = s.cfg := rfl
@[simp] theorem State.setActive_i2c (b : Option Nat) : (s.setActive b).i2c = s.i2c := rfl
@[simp] theorem State.setActive_bpi (b : Option Nat) : (s.setActive b).bpi = s.bpi := rfl
@[simp] theorem State.setActive_cpld (b : Option Nat) : (s.setActive b).cpld = s.cpld := rfl
@[simp] theorem State.setActive_spi2 (b : Option Nat) : (s.setActive b).spi2 = s.spi2 := rfl
@[simp] theorem State.setActive_spid (b : Option Nat) : (s.setActive b).spid = s.spid := rfl
@[simp] theorem State.setActive_jtag (b : Option Nat) : (s.setActive b).jtag = s.jtag := rfl
@[simp] theorem State.setActive_tap (b : Option Nat) : (s.setActive b).tap = s.tap := rfl
@[simp] theorem State.setActive_path (b : Option Nat) : (s.setActive b).path = s.path := rfl
@[simp] theorem State.setActive_others (b : Option Nat) : (s.setActive b).others = s.others := rfl
@[simp] theorem State.setActive_host (b : Option Nat) : (s.setActive b).host = { s.host with activeBus := b } := rfl
@[simp] theorem State.setActive_env (b : Option Nat) : (s.setActive b).env = s.env := rfl
@[simp] theorem State.setActive_sched (b : Option Nat) : (s.setActive b).sched = s.sched := rfl
@[simp] theorem State.setActive_history (b : Option Nat) : (s.setActive b).history = s.history := rfl

/-! ### `State.setBank` -/

@[simp] theorem State.setBank_cfg (k : Byte) : (s.setBank k).cfg = s.cfg := rfl
@[simp] theorem State.setBank_i2c (k : Byte) : (s.setBank k).i2c = s.i2c := rfl
@[simp] theorem State.setBank_bpi (k : Byte) : (s.setBank k).bpi = s.bpi := rfl
@[simp] theorem State.setBank_cpld (k : Byte) : (s.setBank k).cpld = s.cpld := rfl
@[simp] theorem State.setBank_spi2 (k : Byte) : (s.setBank k).spi2 = s.spi2 := rfl
@[simp] theorem State.setBank_spid (k : Byte) : (s.setBank k).spid = s.spid := rfl
@[simp] theorem State.setBank_jtag (k : Byte) : (s.setBank k).jtag = s.jtag := rfl
@[simp] theorem State.setBank_tap (k : Byte) : (s.setBank k).tap = s.tap := rfl
@[simp] theorem State.setBank_path (k : Byte) : (s.setBank k).path = s.path := rfl
@[simp] theorem State.setBank_others (k : Byte) : (s.setBank k).others = s.others := rfl
@[simp] theorem State.setBank_host (k : Byte) : (s.setBank k).host = { s.host with selectedBank := k } := rfl
@[simp] theorem State.setBank_env (k : Byte) : (s.setBank k).env = s.env := rfl
@[simp] theorem State.setBank_sched (k : Byte) : (s.setBank k).sched = s.sched := rfl
@[simp] theorem State.setBank_history (k : Byte) : (s.setBank k).history = s.history := rfl

/-! ### `State.setCursorAt` -/

@[simp] theorem State.setCursorAt_cfg (a : Nat) : (s.setCursorAt a).cfg = s.cfg := rfl
@[simp] theorem State.setCursorAt_i2c (a : Nat) : (s.setCursorAt a).i2c = s.i2c := rfl
@[simp] theorem State.setCursorAt_bpi (a : Nat) : (s.setCursorAt a).bpi = s.bpi := rfl
@[simp] theorem State.setCursorAt_cpld (a : Nat) : (s.setCursorAt a).cpld = s.cpld := rfl
@[simp] theorem State.setCursorAt_spi2 (a : Nat) : (s.setCursorAt a).spi2 = s.spi2 := rfl
@[simp] theorem State.setCursorAt_spid (a : Nat) : (s.setCursorAt a).spid = s.spid := rfl
@[simp] theorem State.setCursorAt_jtag (a : Nat) : (s.setCursorAt a).jtag = s.jtag := rfl
@[simp] theorem State.setCursorAt_tap (a : Nat) : (s.setCursorAt a).tap = s.tap := rfl
@[simp] theorem State.setCursorAt_path (a : Nat) : (s.setCursorAt a).path = s.path := rfl
@[simp] theorem State.setCursorAt_others (a : Nat) : (s.setCursorAt a).others = s.others := rfl
@[simp] theorem State.setCursorAt_host (a : Nat) : (s.setCursorAt a).host = { s.host with cursor := a, cursorKnown := true } := rfl
@[simp] theorem State.setCursorAt_env (a : Nat) : (s.setCursorAt a).env = s.env := rfl
@[simp] theorem State.setCursorAt_sched (a : Nat) : (s.setCursorAt a).sched = s.sched := rfl
@[simp] theorem State.setCursorAt_history (a : Nat) : (s.setCursorAt a).history = s.history := rfl

/-! ### `State.setTracked` -/

@[simp] theorem State.setTracked_cfg (t : JtagState) : (s.setTracked t).cfg = s.cfg := rfl
@[simp] theorem State.setTracked_i2c (t : JtagState) : (s.setTracked t).i2c = s.i2c := rfl
@[simp] theorem State.setTracked_bpi (t : JtagState) : (s.setTracked t).bpi = s.bpi := rfl
@[simp] theorem State.setTracked_cpld (t : JtagState) : (s.setTracked t).cpld = s.cpld := rfl
@[simp] theorem State.setTracked_spi2 (t : JtagState) : (s.setTracked t).spi2 = s.spi2 := rfl
@[simp] theorem State.setTracked_spid (t : JtagState) : (s.setTracked t).spid = s.spid := rfl
@[simp] theorem State.setTracked_jtag (t : JtagState) : (s.setTracked t).jtag = s.jtag := rfl
@[simp] theorem State.setTracked_tap (t : JtagState) : (s.setTracked t).tap = s.tap := rfl
@[simp] theorem State.setTracked_path (t : JtagState) : (s.setTracked t).path = s.path := rfl
@[simp] theorem State.setTracked_others (t : JtagState) : (s.setTracked t).others = s.others := rfl
@[simp] theorem State.setTracked_host (t : JtagState) : (s.setTracked t).host = { s.host with jtagState := t } := rfl
@[simp] theorem State.setTracked_env (t : JtagState) : (s.setTracked t).env = s.env := rfl
@[simp] theorem State.setTracked_sched (t : JtagState) : (s.setTracked t).sched = s.sched := rfl
@[simp] theorem State.setTracked_history (t : JtagState) : (s.setTracked t).history = s.history := rfl

/-! ### `State.setScratch` -/

@[simp] theorem State.setScratch_cfg (x : JtagScratch) : (s.setScratch x).cfg = s.cfg := rfl
@[simp] theorem State.setScratch_i2c (x : JtagScratch) : (s.setScratch x).i2c = s.i2c := rfl
@[simp] theorem State.setScratch_bpi (x : JtagScratch) : (s.setScratch x).bpi = s.bpi := rfl
@[simp] theorem State.setScratch_cpld (x : JtagScratch) : (s.setScratch x).cpld = s.cpld := rfl
@[simp] theorem State.setScratch_spi2 (x : JtagScratch) : (s.setScratch x).spi2 = s.spi2 := rfl
@[simp] theorem State.setScratch_spid (x : JtagScratch) : (s.setScratch x).spid = s.spid := rfl
@[simp] theorem State.setScratch_jtag (x : JtagScratch) : (s.setScratch x).jtag = s.jtag := rfl
@[simp] theorem State.setScratch_tap (x : JtagScratch) : (s.setScratch x).tap = s.tap := rfl
@[simp] theorem State.setScratch_path (x : JtagScratch) : (s.setScratch x).path = s.path := rfl
@[simp] theorem State.setScratch_others (x : JtagScratch) : (s.setScratch x).others = s.others := rfl
@[simp] theorem State.setScratch_host (x : JtagScratch) : (s.setScratch x).host = { s.host with scratch := x } := rfl
@[simp] theorem State.setScratch_env (x : JtagScratch) : (s.setScratch x).env = s.env := rfl
@[simp] theorem State.setScratch_sched (x : JtagScratch) : (s.setScratch x).sched = s.sched := rfl
@[simp] theorem State.setScratch_history (x : JtagScratch) : (s.setScratch x).history = s.history := rfl

/-! ### `State.passFence` -/

@[simp] theorem State.passFence_cfg : s.passFence.cfg = s.cfg := by unfold State.passFence; split <;> rfl
@[simp] theorem State.passFence_i2c : s.passFence.i2c = s.i2c := by unfold State.passFence; split <;> rfl
@[simp] theorem State.passFence_bpi : s.passFence.bpi = s.bpi := by unfold State.passFence; split <;> rfl
@[simp] theorem State.passFence_cpld : s.passFence.cpld = s.cpld := by unfold State.passFence; split <;> rfl
@[simp] theorem State.passFence_spi2 : s.passFence.spi2 = s.spi2 := by unfold State.passFence; split <;> rfl
@[simp] theorem State.passFence_spid : s.passFence.spid = s.spid := by unfold State.passFence; split <;> rfl
@[simp] theorem State.passFence_jtag : s.passFence.jtag = s.jtag := by unfold State.passFence; split <;> rfl
@[simp] theorem State.passFence_others : s.passFence.others = s.others := by unfold State.passFence; split <;> rfl
@[simp] theorem State.passFence_tap : s.passFence.tap = s.tap := by unfold State.passFence; split <;> rfl
@[simp] theorem State.passFence_host : s.passFence.host = s.host := by unfold State.passFence; split <;> rfl
@[simp] theorem State.passFence_env : s.passFence.env = s.env := by unfold State.passFence; split <;> rfl
@[simp] theorem State.passFence_sched : s.passFence.sched = s.sched := by unfold State.passFence; split <;> rfl
@[simp] theorem State.passFence_history : s.passFence.history = s.history := by unfold State.passFence; split <;> rfl

/-! ### `State.backToBack` -/

@[simp] theorem State.backToBack_cfg : s.backToBack.cfg = s.cfg := by unfold State.backToBack; split <;> rfl
@[simp] theorem State.backToBack_i2c : s.backToBack.i2c = s.i2c := by unfold State.backToBack; split <;> rfl
@[simp] theorem State.backToBack_bpi : s.backToBack.bpi = s.bpi := by unfold State.backToBack; split <;> rfl
@[simp] theorem State.backToBack_cpld : s.backToBack.cpld = s.cpld := by unfold State.backToBack; split <;> rfl
@[simp] theorem State.backToBack_spi2 : s.backToBack.spi2 = s.spi2 := by unfold State.backToBack; split <;> rfl
@[simp] theorem State.backToBack_spid : s.backToBack.spid = s.spid := by unfold State.backToBack; split <;> rfl
@[simp] theorem State.backToBack_jtag : s.backToBack.jtag = s.jtag := by unfold State.backToBack; split <;> rfl
@[simp] theorem State.backToBack_tap : s.backToBack.tap = s.tap := by unfold State.backToBack; split <;> rfl
@[simp] theorem State.backToBack_others : s.backToBack.others = s.others := by unfold State.backToBack; split <;> rfl
@[simp] theorem State.backToBack_host : s.backToBack.host = s.host := by unfold State.backToBack; split <;> rfl
@[simp] theorem State.backToBack_env : s.backToBack.env = s.env := by unfold State.backToBack; split <;> rfl
@[simp] theorem State.backToBack_sched : s.backToBack.sched = s.sched := by unfold State.backToBack; split <;> rfl
@[simp] theorem State.backToBack_history : s.backToBack.history = s.history := by unfold State.backToBack; split <;> rfl

@[simp] theorem State.passFence_path : s.passFence.path = afterNonWrite s := by
  unfold State.passFence afterNonWrite; split <;> simp_all

/-! ### `State.setBurst` -/

@[simp] theorem State.setBurst_cfg (c : Controller) (b : BurstState) : (s.setBurst c b).cfg = s.cfg := rfl
@[simp] theorem State.setBurst_i2c (c : Controller) (b : BurstState) : (s.setBurst c b).i2c = s.i2c := rfl
@[simp] theorem State.setBurst_bpi (c : Controller) (b : BurstState) : (s.setBurst c b).bpi = s.bpi := rfl
@[simp] theorem State.setBurst_cpld (c : Controller) (b : BurstState) : (s.setBurst c b).cpld = s.cpld := rfl
@[simp] theorem State.setBurst_spi2 (c : Controller) (b : BurstState) : (s.setBurst c b).spi2 = s.spi2 := rfl
@[simp] theorem State.setBurst_spid (c : Controller) (b : BurstState) : (s.setBurst c b).spid = s.spid := rfl
@[simp] theorem State.setBurst_jtag (c : Controller) (b : BurstState) : (s.setBurst c b).jtag = s.jtag := rfl
@[simp] theorem State.setBurst_tap (c : Controller) (b : BurstState) : (s.setBurst c b).tap = s.tap := rfl
@[simp] theorem State.setBurst_path (c : Controller) (b : BurstState) : (s.setBurst c b).path = s.path := rfl
@[simp] theorem State.setBurst_others (c : Controller) (b : BurstState) : (s.setBurst c b).others = s.others := rfl
@[simp] theorem State.setBurst_env (c : Controller) (b : BurstState) : (s.setBurst c b).env = s.env := rfl
@[simp] theorem State.setBurst_sched (c : Controller) (b : BurstState) : (s.setBurst c b).sched = s.sched := rfl
@[simp] theorem State.setBurst_history (c : Controller) (b : BurstState) : (s.setBurst c b).history = s.history := rfl
@[simp] theorem State.setBurst_mode (c : Controller) (b : BurstState) : (s.setBurst c b).host.mode = s.host.mode := by
  cases c <;> rfl
@[simp] theorem State.setBurst_program (c : Controller) (b : BurstState) : (s.setBurst c b).host.program = s.host.program := by
  cases c <;> rfl
@[simp] theorem State.setBurst_pc (c : Controller) (b : BurstState) : (s.setBurst c b).host.pc = s.host.pc := by
  cases c <;> rfl
@[simp] theorem State.setBurst_last (c : Controller) (b : BurstState) : (s.setBurst c b).host.last = s.host.last := by
  cases c <;> rfl
@[simp] theorem State.setBurst_lastKnown (c : Controller) (b : BurstState) : (s.setBurst c b).host.lastKnown = s.host.lastKnown := by
  cases c <;> rfl
@[simp] theorem State.setBurst_status (c : Controller) (b : BurstState) : (s.setBurst c b).host.status = s.host.status := by
  cases c <;> rfl
@[simp] theorem State.setBurst_activeBus (c : Controller) (b : BurstState) : (s.setBurst c b).host.activeBus = s.host.activeBus := by
  cases c <;> rfl
@[simp] theorem State.setBurst_selectedBank (c : Controller) (b : BurstState) : (s.setBurst c b).host.selectedBank = s.host.selectedBank := by
  cases c <;> rfl
@[simp] theorem State.setBurst_cursor (c : Controller) (b : BurstState) : (s.setBurst c b).host.cursor = s.host.cursor := by
  cases c <;> rfl
@[simp] theorem State.setBurst_cursorKnown (c : Controller) (b : BurstState) : (s.setBurst c b).host.cursorKnown = s.host.cursorKnown := by
  cases c <;> rfl
@[simp] theorem State.setBurst_chipSelected (c : Controller) (b : BurstState) : (s.setBurst c b).host.chipSelected = s.host.chipSelected := by
  cases c <;> rfl
@[simp] theorem State.setBurst_jtagState (c : Controller) (b : BurstState) : (s.setBurst c b).host.jtagState = s.host.jtagState := by
  cases c <;> rfl
@[simp] theorem State.setBurst_scratch (c : Controller) (b : BurstState) : (s.setBurst c b).host.scratch = s.host.scratch := by
  cases c <;> rfl
@[simp] theorem State.setBurst_drv (c : Controller) (b : BurstState) : (s.setBurst c b).host.drv = s.host.drv := by
  cases c <;> rfl

/-! ### `State.swap`: the units, the environment and the history are the same -/

@[simp] theorem State.swap_i2c (d : Nat) : (s.swap d).i2c = s.i2c := by unfold State.swap; split <;> rfl
@[simp] theorem State.swap_bpi (d : Nat) : (s.swap d).bpi = s.bpi := by unfold State.swap; split <;> rfl
@[simp] theorem State.swap_cpld (d : Nat) : (s.swap d).cpld = s.cpld := by unfold State.swap; split <;> rfl
@[simp] theorem State.swap_spi2 (d : Nat) : (s.swap d).spi2 = s.spi2 := by unfold State.swap; split <;> rfl
@[simp] theorem State.swap_spid (d : Nat) : (s.swap d).spid = s.spid := by unfold State.swap; split <;> rfl
@[simp] theorem State.swap_jtag (d : Nat) : (s.swap d).jtag = s.jtag := by unfold State.swap; split <;> rfl
@[simp] theorem State.swap_tap (d : Nat) : (s.swap d).tap = s.tap := by unfold State.swap; split <;> rfl
@[simp] theorem State.swap_env (d : Nat) : (s.swap d).env = s.env := by unfold State.swap; split <;> rfl
@[simp] theorem State.swap_sched (d : Nat) : (s.swap d).sched = s.sched := by unfold State.swap; split <;> rfl
@[simp] theorem State.swap_history (d : Nat) : (s.swap d).history = s.history := by unfold State.swap; split <;> rfl
@[simp] theorem State.swap_others_length (d : Nat) : (s.swap d).others.length = s.others.length := by
  unfold State.swap; split <;> simp

/-- What a swap is, where the domain exists. -/
theorem State.swap_eq {d : Nat} {h : OtherHost} {us : List UnitId} (hh : s.others[d]? = some h)
    (hu : s.cfg.otherDomains[d]? = some us) : s.swap d =
      { s with
        cfg := { s.cfg with ownUnits := us, otherDomains := s.cfg.otherDomains.set d s.cfg.ownUnits }
        host := h.host
        path := h.path
        others := s.others.set d ⟨s.host, s.path⟩ } := by
  simp [State.swap, hh, hu]

/-- A domain exists exactly where both lists have it. -/
theorem State.hasDomain_iff {d : Nat} :
    s.hasDomain d = true ↔ ∃ h us, s.others[d]? = some h ∧ s.cfg.otherDomains[d]? = some us := by
  simp only [State.hasDomain, Bool.and_eq_true, decide_eq_true_eq]
  constructor
  · rintro ⟨h1, h2⟩
    exact ⟨_, _, List.getElem?_eq_getElem h1, List.getElem?_eq_getElem h2⟩
  · rintro ⟨h, us, h1, h2⟩
    exact ⟨(List.getElem?_eq_some_iff.1 h1).1, (List.getElem?_eq_some_iff.1 h2).1⟩

/-- Swapping back undoes a swap, with whatever the agent in the first place has become. -/
theorem State.swap_back {d : Nat} {h : OtherHost} {us : List UnitId} (hh : s.others[d]? = some h)
    (hu : s.cfg.otherDomains[d]? = some us) {t : State} (hc : t.cfg = (s.swap d).cfg) (ho : t.others = (s.swap d).others) :
    t.swap d = { t with
      cfg := s.cfg
      host := s.host
      path := s.path
      others := s.others.set d ⟨t.host, t.path⟩ } := by
  have hd := (List.getElem?_eq_some_iff.1 hh).1
  have hv := (List.getElem?_eq_some_iff.1 hu)
  rw [s.swap_eq hh hu] at hc ho
  have h1 : t.others[d]? = some ⟨s.host, s.path⟩ := by rw [ho]; simp [hd]
  have h2 : t.cfg.otherDomains[d]? = some s.cfg.ownUnits := by rw [hc]; simp [hv.1]
  have h3 : s.cfg.otherDomains.set d us = s.cfg.otherDomains := by rw [← hv.2]; exact List.set_getElem_self _
  rw [t.swap_eq h1 h2, hc, ho]
  simp [List.set_set, h3]

/-! ### `afterWord`, `afterRead` -/

theorem State.advance_eq : s.advance = { s with host := afterWord s.host } := rfl

theorem State.read_advance_eq (v : RegVal) : (s.setLast v).advance = { s with host := afterRead s.host v } := rfl

/-- The word after a non-write: the fence is used up, whatever else follows. -/
theorem State.passFence_eq : s.passFence = { s with path := afterNonWrite s } := by
  unfold State.passFence afterNonWrite; split <;> simp_all

/-- In `InOrder` there is no fence. -/
theorem State.passFence_inOrder (h : s.cfg.regOrder = .inOrder) : s.passFence = s := by simp [State.passFence, h]

end Sys2Proof.Machine
end

