-- ==== Sys2Proof/Laws/Ops.lean ====
section
/-! SUPPORT. Once for each shared operation: everything it can do. -/

namespace Sys2Proof.Machine

/-! ## Results and draws -/

@[simp] theorem toOutcome_ok (t : State) : toOutcome (.ok t) = .next t := rfl
@[simp] theorem toOutcome_error (e : Fault) : toOutcome (.error e) = .fault e := rfl
@[simp] theorem mapOk_ok (g : State → State) (t : State) : mapOk g (.ok t) = .ok (g t) := rfl
@[simp] theorem mapOk_error (g : State → State) (e : Fault) : mapOk g (.error e) = .error e := rfl

theorem toOutcome_next {r : Except Fault State} {t : State} (h : toOutcome r = .next t) : r = .ok t := by
  cases r <;> simp_all

theorem toOutcome_not_refused (r : Except Fault State) (x : Refusal) : toOutcome r ≠ .refused x := by
  cases r <;> simp

theorem mapOk_cases {g : State → State} {r : Except Fault State} {t : State} (h : mapOk g r = .ok t) :
    ∃ u, r = .ok u ∧ t = g u := by
  cases r with
  | error e => cases h
  | ok u => exact ⟨u, rfl, (Except.ok.inj h).symm⟩

@[simp] theorem draw_eq (q : Oracle) (s : State) : draw q s = (s.nextAnswer q, s.answered q) := rfl
@[simp] theorem drawBit_eq (q : Oracle) (s : State) :
    drawBit q s = ((s.nextAnswer q).getLsbD 0, s.answered q) := rfl
@[simp] theorem drawByte_eq (q : Oracle) (s : State) :
    drawByte q s = ((s.nextAnswer q).setWidth 8, s.answered q) := rfl
@[simp] theorem drawHalf_eq (q : Oracle) (s : State) :
    drawHalf q s = ((s.nextAnswer q).setWidth 16, s.answered q) := rfl

/-! ## Which register an access reaches -/

/-- The fault of an access depends on its unit, its operation, its bank and its direction only. -/
theorem accessFault_congr (c : Config) {i j : Instr} (hu : i.unit = j.unit) (ho : i.op = j.op) (hb : i.bank? = j.bank?)
    (hw : i.isWrite = j.isWrite) : accessFault c i = accessFault c j := by
  unfold accessFault regAddr boundAddr regEntry
  rw [hu, ho, hb, hw]

/-- What a register address says of its row (R75, R106). -/
theorem regAddr_some {c : Config} {i : Instr} {a : Nat} (h : regAddr c i = some a) :
    ∃ e, regEntry c i = some e ∧ a = boundAddr c e i ∧ a % 4 = 0 ∧ a < 2 ^ c.regAddrBits ∧ layoutOk e.layout = true := by
  unfold regAddr at h
  split at h
  · cases h
  · rename_i e he
    split_ifs at h with hk
    cases h
    simp only [Bool.and_eq_true, decide_eq_true_eq] at hk
    exact ⟨e, he, rfl, hk.1.1, hk.1.2, hk.2⟩

/-- An access that makes no fault reaches a register of a bank and a unit that the host agent has (R71, R160, R438). -/
theorem accessFault_none {c : Config} {i : Instr} (h : accessFault c i = none) :
    (∀ b, i.bank? = some b → b < c.i2cNumBanks) ∧ i.unit ∈ c.ownUnits ∧ ∃ a, regAddr c i = some a := by
  unfold accessFault at h
  split_ifs at h with h1 h2 h3
  refine ⟨fun b hb => ?_, by simpa using h2, Option.ne_none_iff_exists'.1 (by simpa using h3)⟩
  simpa [hb] using h1

/-! ## Issuing an access -/

theorem issueWrite_cases {i : Instr} {f : State → Except Fault State} {s t : State}
    (h : issueWrite i f s = .ok t) :
    accessFault s.cfg i = none ∧
      ((s.cfg.regOrder = .inOrder ∧ ∃ u, f s = .ok u ∧ t = u.recordWrite i) ∨
       (s.cfg.regOrder = .postedUntilBarrier ∧ t = s.post i)) := by
  unfold issueWrite at h
  split at h
  · cases h
  · refine ⟨‹_›, ?_⟩
    split at h
    · obtain ⟨u, hu, rfl⟩ := mapOk_cases h
      exact .inl ⟨‹_›, u, hu, rfl⟩
    · exact .inr ⟨‹_›, (Except.ok.inj h).symm⟩

theorem issueRead_cases {i : Instr} {f : State → Except Fault (RegVal × State)} {s t : State}
    (h : issueRead i f s = .ok t) :
    accessFault s.cfg i = none ∧ ∃ v u, f s = .ok (v, u) ∧ t = ((u.setLast v).record (.access i v)).passFence := by
  unfold issueRead at h
  split at h
  · cases h
  · refine ⟨‹_›, ?_⟩
    split at h
    · cases h
    · exact ⟨_, _, ‹_›, (Except.ok.inj h).symm⟩

/-! ## A word of a host program -/

theorem hostWrite_cases {i : Instr} {f : State → Except Fault State} {s t : State}
    (h : hostWrite i f s = .next t) :
    (accepts i s = false ∧ t = s) ∨ (accepts i s = true ∧ ∃ u, issueWrite i f s = .ok u ∧ t = u.advance) := by
  unfold hostWrite at h
  split at h
  · obtain ⟨u, hu, rfl⟩ := mapOk_cases (toOutcome_next h)
    exact .inr ⟨‹_›, u, hu, rfl⟩
  · cases h
    exact .inl ⟨eq_false_of_ne_true ‹_›, rfl⟩

theorem hostRead_cases {i : Instr} {f : State → Except Fault (RegVal × State)} {s t : State}
    (h : hostRead i f s = .next t) :
    (accepts i s = false ∧ t = s) ∨ (accepts i s = true ∧ ∃ u, issueRead i f s = .ok u ∧ t = u.advance) := by
  unfold hostRead at h
  split at h
  · obtain ⟨u, hu, rfl⟩ := mapOk_cases (toOutcome_next h)
    exact .inr ⟨‹_›, u, hu, rfl⟩
  · cases h
    exact .inl ⟨eq_false_of_ne_true ‹_›, rfl⟩

/-- A write performed at once: what the word does, when its effect succeeds. -/
theorem hostWrite_direct {i : Instr} {f : State → Except Fault State} {s u : State} (hd : Direct i s)
    (ha : accepts i s = true) (hf : f s = .ok u) : hostWrite i f s = .next (u.recordWrite i).advance := by
  simp [hostWrite, ha, issueWrite, hd.1, hd.2, hf]

/-- A write performed at once: the word faults when its effect does. -/
theorem hostWrite_direct_fault {i : Instr} {f : State → Except Fault State} {s : State} {e : Fault} (hd : Direct i s)
    (ha : accepts i s = true) (hf : f s = .error e) : hostWrite i f s = .fault e := by
  simp [hostWrite, ha, issueWrite, hd.1, hd.2, hf]

/-- An accepted read: what the word does, when it gives a value. -/
theorem hostRead_value {i : Instr} {f : State → Except Fault (RegVal × State)} {s u : State} {v : RegVal}
    (ha : accepts i s = true) (hn : accessFault s.cfg i = none) (hf : f s = .ok (v, u)) :
    hostRead i f s = .next (((u.setLast v).record (.access i v)).passFence).advance := by
  simp [hostRead, ha, issueRead, hn, hf]

/-- An accepted read faults when its effect does. -/
theorem hostRead_fault {i : Instr} {f : State → Except Fault (RegVal × State)} {s : State} {e : Fault}
    (ha : accepts i s = true) (hn : accessFault s.cfg i = none) (hf : f s = .error e) : hostRead i f s = .fault e := by
  simp [hostRead, ha, issueRead, hn, hf]

/-! ## The words by their kind -/

theorem exec_write {i : Instr} (s : State) (h : i.isWrite = true) : exec i s = hostWrite i (writeEffect i) s := by
  cases i <;> first | rfl | cases h

theorem exec_read {i : Instr} (s : State) (h : i.isRead = true) : exec i s = hostRead i (readEffect i) s := by
  cases i <;> first | rfl | cases h

theorem issue_write {i : Instr} (s : State) (h : i.isWrite = true) : issue i s = issueWrite i (writeEffect i) s := by
  simp [issue, h]

theorem issue_read {i : Instr} (s : State) (h : i.isRead = true) : issue i s = issueRead i (readEffect i) s := by
  cases i <;> first | rfl | cases h

/-- In `InOrder` every operation is accepted at once, but a command write to a full FIFO (R401). -/
theorem accepts_inOrder {i : Instr} {s : State} (h : s.cfg.regOrder = .inOrder) :
    accepts i s = hasRoom i s := by
  simp [accepts, h]

/-! ## What an effect on some units leaves as it was -/

/-- From `s` to `t` nothing changes but the units named, the environment and the history. -/
structure Within (us : List UnitId) (s t : State) : Prop where
  history : s.history <+: t.history
  cfg : t.cfg = s.cfg
  path : t.path = s.path
  host : t.host = s.host
  others : t.others = s.others
  sched : t.sched = s.sched
  i2c : .i2c ∉ us → t.i2c = s.i2c
  bpi : .bpi ∉ us → t.bpi = s.bpi
  cpld : .bpi ∉ us → t.cpld = s.cpld
  spi2 : .spi2 ∉ us → t.spi2 = s.spi2
  spid : .spid ∉ us → t.spid = s.spid
  jtag : .jtag ∉ us → t.jtag = s.jtag
  tap : .jtag ∉ us → t.tap = s.tap

theorem Within.refl (us : List UnitId) (s : State) : Within us s s :=
  ⟨List.prefix_refl _, rfl, rfl, rfl, rfl, rfl, fun _ => rfl, fun _ => rfl, fun _ => rfl, fun _ => rfl, fun _ => rfl, fun _ => rfl, fun _ => rfl⟩

theorem Within.trans {us : List UnitId} {s t u : State} (h : Within us s t) (g : Within us t u) : Within us s u where
  history := h.history.trans g.history
  cfg := g.cfg.trans h.cfg
  path := g.path.trans h.path
  host := g.host.trans h.host
  others := g.others.trans h.others
  sched := g.sched.trans h.sched
  i2c n := (g.i2c n).trans (h.i2c n)
  bpi n := (g.bpi n).trans (h.bpi n)
  cpld n := (g.cpld n).trans (h.cpld n)
  spi2 n := (g.spi2 n).trans (h.spi2 n)
  spid n := (g.spid n).trans (h.spid n)
  jtag n := (g.jtag n).trans (h.jtag n)
  tap n := (g.tap n).trans (h.tap n)

/-- An answer of the environment changes no unit. -/
theorem within_answered (us : List UnitId) (s : State) (q : Oracle) : Within us s (s.answered q) := by
  constructor <;> simp

/-- An event changes no unit. -/
theorem within_record (us : List UnitId) (s : State) (e : Event) : Within us s (s.record e) := by
  constructor <;> simp

end Sys2Proof.Machine
end

