-- ==== Sys2Proof/Laws/Units.lean ====
section
/-! SUPPORT. What the effects of the register accesses and the unit steps leave as they were, and that they keep the invariant
of their unit. -/

namespace Sys2Proof.Machine

/-! ## I2C -/

theorem redrawBusy_eq (b : Nat) (s : State) :
    redrawBusy b s = (s.answered (.i2cBusy b)).setBusy b ((s.nextAnswer (.i2cBusy b)).getLsbD 0) := rfl

/-- The answers of `n` draws after one more before them. -/
theorem answers_cons {s : State} {q : Oracle} {a : Nat → RegVal} {n i : Nat}
    (h : ∀ k < n, k < s.env.answers.tail.length → s.env.answers.tail[k]? = some (a (i + 1 + k))) :
    ∀ k < n + 1, k < s.env.answers.length →
      s.env.answers[k]? = some (if i + k = i then s.nextAnswer q else a (i + k)) := by
  intro k hk hl
  unfold State.nextAnswer
  cases hs : s.env.answers with
  | nil => rw [hs] at hl; simp at hl
  | cons v r =>
    rw [hs] at h hl
    cases k with
    | zero => simp
    | succ k =>
      simp only [List.getElem?_cons_succ]
      simpa [Nat.add_assoc, Nat.add_comm 1] using h k (by omega) (by simpa using hl)

/-- What drawing the state of `n` buses from bus `b` on does (R168): `n` answers, recorded in order, each in its bus; the other buses
stay. -/
theorem redrawBanks_spec (n b : Nat) (s : State) :
    ∃ a : Nat → RegVal,
      redrawBanks n b s = { s with
        i2c := { s.i2c with busy := (redrawBanks n b s).i2c.busy }
        env := ⟨s.env.answers.drop n, s.env.drawn + n⟩
        history := s.history ++ (List.range n).map (fun k => .answer (.i2cBusy (b + k)) (a (b + k))) } ∧
      (∀ k < n, k < s.env.answers.length → s.env.answers[k]? = some (a (b + k))) ∧
      (∀ x < 8, (redrawBanks n b s).i2c.busy[x]? =
        if b ≤ x ∧ x < b + n then some ((a x).getLsbD 0) else s.i2c.busy[x]?) := by
  induction n generalizing b s with
  | zero => exact ⟨fun _ => 0, by simp [redrawBanks], by simp, by simp [redrawBanks]⟩
  | succ n ih =>
    obtain ⟨a, h1, h2, h3⟩ := ih (b + 1) (redrawBusy b s)
    refine ⟨fun k => if k = b then s.nextAnswer (.i2cBusy b) else a k, ?_,
      answers_cons (s := s) (q := .i2cBusy b) h2, ?_⟩
    · conv_lhs => rw [redrawBanks, h1]
      simp only [redrawBanks, redrawBusy_eq, State.setBusy_history, State.answered_history, List.range_succ_eq_map,
        List.map_cons, List.map_map, List.append_assoc, List.singleton_append]
      simp [State.setBusy, State.answered, Function.comp_def, Nat.add_assoc, Nat.add_comm 1]
    · intro x hx
      simp only [redrawBanks]
      rw [h3 x hx, redrawBusy_eq]
      simp only [State.setBusy_i2c, State.answered_i2c]
      by_cases e : x = b
      · subst e; simp [hx]
      · rw [Vector.getElem?_setIfInBounds_ne (by omega)]
        simp only [e, if_false]
        congr 1; simp only [eq_iff_iff]; omega

theorem within_redrawBusy (b : Nat) (s : State) : Within [.i2c] s (redrawBusy b s) := by
  constructor <;> simp [redrawBusy_eq]

theorem within_redrawBanks (n b : Nat) (s : State) : Within [.i2c] s (redrawBanks n b s) := by
  induction n generalizing b s with
  | zero => exact Within.refl _ s
  | succ n ih => exact (within_redrawBusy b s).trans (ih _ _)

theorem within_setEnable (e : Bool) (s : State) : Within [.i2c] s (s.setEnable e) := by constructor <;> simp

theorem within_endTransfer (s : State) : Within [.i2c] s s.endTransfer := by constructor <;> simp

theorem within_abandonTransfer (s : State) : Within [.i2c] s (abandonTransfer s) := by
  unfold abandonTransfer
  split
  · exact (within_endTransfer s).trans (within_redrawBusy _ _)
  · exact within_endTransfer s

/-! ## The effects of writes and reads -/

/-- A write changes the state of its unit only, but for the history and the environment (R83). -/
theorem writeEffect_within {i : Instr} {s t : State} (h : writeEffect i s = .ok t) : Within [i.unit] s t := by
  cases i with
  | i2cWctrl b en =>
    simp only [writeEffect, performI2cWctrl, Except.ok.injEq] at h
    subst h
    split_ifs
    · exact (within_setEnable en s).trans (within_redrawBanks _ _ _)
    · exact (within_setEnable en s).trans (within_abandonTransfer _)
    · exact within_setEnable en s
  | i2cWrite b d sta sto =>
    obtain ⟨u, hu, rfl⟩ := mapOk_cases h
    simp only [startTransfer] at hu
    split at hu <;> simp only [reduceCtorEq, Except.ok.injEq] at hu
    subst hu
    constructor <;> simp [Instr.unit]
  | spidWctrl c =>
    simp only [writeEffect, performSpidWctrl, spidEdge, Except.ok.injEq] at h
    subst h
    constructor <;> simp [Instr.unit] <;> split_ifs <;> simp
  | _ =>
    simp only [writeEffect, performI2cWpreLo, performI2cWpreHi, performI2cRead, performI2cStop, startTransfer,
      performBpiCmd, performBpiWbank, performSpi2Wctrl, performSpi2Wdata, performSpidWfsel, performJtagShift,
      performJtagWpresc] at h
    first
    | (split at h <;> simp only [reduceCtorEq, Except.ok.injEq] at h
       subst h
       constructor <;> simp [Instr.unit])
    | (simp only [Except.ok.injEq] at h
       subst h
       constructor <;> simp [Instr.unit])

theorem spidLine_within (us : List UnitId) (i : Nat) (s : State) : Within us s (spidLine i s).2 := by
  unfold spidLine
  split_ifs
  · exact Within.refl _ s
  · exact within_answered _ _ _

/-- A read changes no unit, but for the two reads that take an entry out of their FIFO (R77). -/
theorem readEffect_within {i : Instr} {s t : State} {v : RegVal} (h : readEffect i s = .ok (v, t)) :
    Within (if i = .bpiRdata then [.bpi] else if i = .spi2Rdata then [.spi2] else []) s t := by
  cases i with
  | spidRin =>
    simp only [readEffect, readSpidIn, Except.ok.injEq, Prod.mk.injEq] at h
    obtain ⟨-, rfl⟩ := h
    exact ((spidLine_within _ 0 s).trans (spidLine_within _ 1 _)).trans
      ((spidLine_within _ 2 _).trans (spidLine_within _ 3 _))
  | _ =>
    simp only [readEffect, readI2cPreLo, readI2cPreHi, readI2cCtrl, readI2cStat, readI2cData, readBpiData, readBpiBank,
      readSpi2Ctrl, readSpi2Data, readJtagTdo, readJtagStat, draw_eq, drawBit_eq, drawByte_eq, drawHalf_eq] at h
    first
    | (split at h <;> simp only [reduceCtorEq, Except.ok.injEq, Prod.mk.injEq] at h <;>
        (obtain ⟨-, rfl⟩ := h; constructor <;> simp))
    | (simp only [Except.ok.injEq, Prod.mk.injEq] at h
       obtain ⟨-, rfl⟩ := h
       constructor <;> simp)

end Sys2Proof.Machine
end

