-- ==== Sys2Proof/Laws/Driver.lean ====
section
/-! SUPPORT. What a point of a host procedure can change: the driver-side fields of the host, the environment and the history,
and no unit of the block. -/

namespace Sys2Proof.Machine

/-- From `s` to `t` only the driver side of the host, the environment and the history change, and `S.dummy_done`, which is
host-side (R49). -/
structure HostSide (s t : State) : Prop where
  history : s.history <+: t.history
  cfg : t.cfg = s.cfg
  i2c : t.i2c = s.i2c
  bpi : t.bpi = s.bpi
  cpld : t.cpld = s.cpld
  spid : t.spid = s.spid
  jtag : t.jtag = s.jtag
  tap : t.tap = s.tap
  path : t.path = s.path
  others : t.others = s.others
  sched : t.sched = s.sched
  mode : t.host.mode = s.host.mode
  program : t.host.program = s.host.program
  pc : t.host.pc = s.host.pc
  status : t.host.status = s.host.status
  last : t.host.last = s.host.last
  spi2 : t.spi2 = { s.spi2 with dummyDone := t.spi2.dummyDone }

theorem HostSide.refl (s : State) : HostSide s s := by constructor <;> simp

theorem HostSide.trans {s t u : State} (h : HostSide s t) (g : HostSide t u) : HostSide s u where
  history := h.history.trans g.history
  cfg := g.cfg.trans h.cfg
  i2c := g.i2c.trans h.i2c
  bpi := g.bpi.trans h.bpi
  cpld := g.cpld.trans h.cpld
  spid := g.spid.trans h.spid
  jtag := g.jtag.trans h.jtag
  tap := g.tap.trans h.tap
  path := g.path.trans h.path
  others := g.others.trans h.others
  sched := g.sched.trans h.sched
  mode := g.mode.trans h.mode
  program := g.program.trans h.program
  pc := g.pc.trans h.pc
  status := g.status.trans h.status
  last := g.last.trans h.last
  spi2 := by rw [g.spi2, h.spi2]

variable {s t : State}

/-! Each update of the driver side stays within it. -/

theorem HostSide.setDrv (h : HostSide s t) (d : Driver) : HostSide s (t.setDrv d) := h.trans (by constructor <;> rfl)
theorem HostSide.push (h : HostSide s t) (ms : List Micro) : HostSide s (t.push ms) := h.trans (by constructor <;> rfl)
theorem HostSide.setStatus (h : HostSide s t) (st : Status) : HostSide s (t.setStatus st) := h.trans (by constructor <;> rfl)
theorem HostSide.store (h : HostSide s t) (n : Nat) (v : Half) : HostSide s (t.store n v) := h.trans (by constructor <;> rfl)
theorem HostSide.pop (h : HostSide s t) : HostSide s (t.pop) := h.trans (by constructor <;> rfl)
theorem HostSide.answered (h : HostSide s t) (q : Oracle) : HostSide s (t.answered q) := h.trans (by constructor <;> first | rfl | exact List.prefix_append _ _)
theorem HostSide.record (h : HostSide s t) (e : Event) : HostSide s (t.record e) := h.trans (by constructor <;> first | rfl | exact List.prefix_append _ _)
theorem HostSide.setActive (h : HostSide s t) (b : Option Nat) : HostSide s (t.setActive b) := h.trans (by constructor <;> rfl)
theorem HostSide.setBank (h : HostSide s t) (k : Byte) : HostSide s (t.setBank k) := h.trans (by constructor <;> rfl)
theorem HostSide.setCursorAt (h : HostSide s t) (a : Nat) : HostSide s (t.setCursorAt a) := h.trans (by constructor <;> rfl)
theorem HostSide.setTracked (h : HostSide s t) (x : JtagState) : HostSide s (t.setTracked x) := h.trans (by constructor <;> rfl)
theorem HostSide.setScratch (h : HostSide s t) (x : JtagScratch) : HostSide s (t.setScratch x) := h.trans (by constructor <;> rfl)

theorem HostSide.setBurst (h : HostSide s t) (c : Controller) (b : BurstState) : HostSide s (t.setBurst c b) :=
  h.trans (by cases c <;> constructor <;> rfl)

theorem HostSide.setShot (h : HostSide s t) (c : Controller) (f l : Bool) : HostSide s (t.setShot c f l) :=
  h.setBurst _ _

theorem HostSide.cursorShot (h : HostSide s t) (k : Nat) : HostSide s (t.cursorShot k) := h.setBurst _ _

theorem HostSide.storeBytes (h : HostSide s t) (v : RegVal) (pos n i : Nat) :
    HostSide s (storeBytes v pos n i t) := by
  induction n generalizing i t with
  | zero => exact h
  | succ n ih => exact ih (h.store _ _) _

theorem HostSide.storeWords (h : HostSide s t) (pos : Nat) (l : List Half) : HostSide s (storeWords pos l t) := by
  induction l generalizing pos t with
  | nil => exact h
  | cons w l ih => exact ih (h.store _ _) _

theorem HostSide.storeStream (h : HostSide s t) (lsb : Bool) (bits : List Bool) (pos n i : Nat) :
    HostSide s (storeStream lsb bits pos n i t) := by
  induction n generalizing i t with
  | zero => exact h
  | succ n ih => exact ih (h.store _ _) _

theorem HostSide.logFifo (h : HostSide s t) (r : RegVal) : HostSide s (logFifo r t) := by
  unfold Machine.logFifo
  split_ifs
  · exact (h.record _).record _
  · exact h.record _
  · exact h.record _
  · exact h

theorem HostSide.ite {c : Prop} [Decidable c] {a b : State} (ha : HostSide s a) (hb : HostSide s b) :
    HostSide s (if c then a else b) := by
  split
  · exact ha
  · exact hb

theorem withBurst_cases {c : Controller} {f : BurstState → Except Fault State}
    (h : withBurst c s f = .ok t) : ∃ u, f u = .ok t := by
  unfold withBurst at h
  split at h
  · cases h
  · exact ⟨_, h⟩

theorem withActive_cases {f : Nat → Except Fault State} (h : withActive s f = .ok t) :
    t = s.setStatus .invalidState ∨ ∃ b, f b = .ok t := by
  unfold withActive at h
  split at h
  · exact .inl (Except.ok.inj h).symm
  · exact .inr ⟨_, h⟩

theorem HostSide.bpiCursor (s : State) : HostSide s (bpiCursor s).2 := by
  unfold Machine.bpiCursor
  split
  · exact .refl s
  · exact ((HostSide.refl s).answered _).setCursorAt _

theorem withSpidCheck_cases {f : BurstState → Except Fault State} (h : withSpidCheck s f = .ok t) :
    t = s.setStatus .invalidArgument ∨ ∃ u, f u = .ok t := by
  obtain ⟨u, hu⟩ := withBurst_cases h
  split at hu
  · exact .inr ⟨u, hu⟩
  · exact .inl (Except.ok.inj hu).symm

end Sys2Proof.Machine
end

