-- ==== Sys2Proof/Laws/Procs.lean ====
section
/-! SUPPORT. Every point of a host procedure stays within the driver side of the host: one lemma per definition, then all of
them at once. -/

namespace Sys2Proof.Machine

variable {s t : State}

theorem runPollTest_hostSide {i : Instr} {bit : Nat} {pol bounded : Bool} (h : runPollTest i bit pol bounded s = .ok t) :
    HostSide s t := by
  simp only [runPollTest, drawBit_eq, Except.ok.injEq] at h
  subst h
  repeat' first
      | with_reducible exact HostSide.refl _ | split | apply HostSide.push | apply HostSide.setStatus
      | apply HostSide.answered

theorem runI2cActivate_hostSide {b : Nat} (h : runI2cActivate b s = .ok t) : HostSide s t := by
  simp only [runI2cActivate, Except.ok.injEq] at h
  subst h
  repeat' first | with_reducible exact HostSide.refl _ | split | apply HostSide.push | apply HostSide.setStatus

theorem runI2cSelect_hostSide {b : Nat} (h : runI2cSelect b s = .ok t) : HostSide s t := by
  simp only [runI2cSelect, Except.ok.injEq] at h
  subst h
  repeat' first | with_reducible exact HostSide.refl _ | split | apply HostSide.setActive

theorem runI2cForget_hostSide (h : runI2cForget s = .ok t) : HostSide s t := by
  simp only [runI2cForget, Except.ok.injEq] at h
  subst h
  repeat' first | with_reducible exact HostSide.refl _ | split | apply HostSide.setActive

theorem runI2cProgram_hostSide {b : Nat} (h : runI2cProgram b s = .ok t) : HostSide s t := by
  simp only [runI2cProgram, Except.ok.injEq] at h
  subst h
  repeat' first | with_reducible exact HostSide.refl _ | split | apply HostSide.push | apply HostSide.setStatus

theorem runI2cReadHi_hostSide {b : Nat} {p : Half} (h : runI2cReadHi b p s = .ok t) : HostSide s t := by
  simp only [runI2cReadHi, Except.ok.injEq] at h
  subst h
  repeat' first | with_reducible exact HostSide.refl _ | split | apply HostSide.push

theorem runI2cVerify_hostSide {lo : Byte} {p : Half} (h : runI2cVerify lo p s = .ok t) : HostSide s t := by
  simp only [runI2cVerify, Except.ok.injEq] at h
  subst h
  repeat' first | with_reducible exact HostSide.refl _ | split | apply HostSide.setStatus

theorem runI2cEnable_hostSide {b : Nat} (h : runI2cEnable b s = .ok t) : HostSide s t := by
  simp only [runI2cEnable, Except.ok.injEq] at h
  subst h
  repeat' first | with_reducible exact HostSide.refl _ | split | apply HostSide.push

theorem runI2cEnableTest_hostSide {b : Nat} (h : runI2cEnableTest b s = .ok t) : HostSide s t := by
  simp only [runI2cEnableTest, Except.ok.injEq] at h
  subst h
  repeat' first | with_reducible exact HostSide.refl _ | split | apply HostSide.push

theorem i2cPreFlags_hostSide (h : i2cPreFlags s = .ok t) : HostSide s t := by
  simp only [i2cPreFlags, Except.ok.injEq] at h
  subst h
  repeat' first | with_reducible exact HostSide.refl _ | split | apply HostSide.setStatus

theorem i2cPostFlags_hostSide (h : i2cPostFlags s = .ok t) : HostSide s t := by
  simp only [i2cPostFlags, Except.ok.injEq] at h
  subst h
  repeat' first | with_reducible exact HostSide.refl _ | split | apply HostSide.push

theorem i2cWriteShot_hostSide {k : Nat} (h : i2cWriteShot k s = .ok t) : HostSide s t := by
  obtain ⟨u, h⟩ := withBurst_cases h
  obtain rfl | ⟨b, h⟩ := withActive_cases h
  · exact (HostSide.refl s).setStatus _
  simp only [Except.ok.injEq] at h
  subst h
  repeat' first | with_reducible exact HostSide.refl _ | split | apply HostSide.push

theorem runI2cCheckAck_hostSide (h : runI2cCheckAck s = .ok t) : HostSide s t := by
  unfold runI2cCheckAck at h
  split at h
  · exact Except.ok.inj h ▸ HostSide.refl s
  obtain ⟨u, h⟩ := withBurst_cases h
  simp only [Except.ok.injEq] at h
  subst h
  repeat' first | with_reducible exact HostSide.refl _ | split | apply HostSide.setStatus | apply HostSide.record

theorem i2cRequestRead_hostSide (h : i2cRequestRead s = .ok t) : HostSide s t := by
  obtain ⟨u, h⟩ := withBurst_cases h
  obtain rfl | ⟨b, h⟩ := withActive_cases h
  · exact (HostSide.refl s).setStatus _
  simp only [Except.ok.injEq] at h
  subst h
  repeat' first | with_reducible exact HostSide.refl _ | split | apply HostSide.push

theorem i2cReadShot_hostSide {k : Nat} (h : i2cReadShot k s = .ok t) : HostSide s t := by
  obtain rfl | ⟨b, h⟩ := withActive_cases h
  · exact (HostSide.refl s).setStatus _
  simp only [Except.ok.injEq] at h
  subst h
  repeat' first | with_reducible exact HostSide.refl _ | split | apply HostSide.push

theorem runI2cStore_hostSide {pos : Nat} (h : runI2cStore pos s = .ok t) : HostSide s t := by
  simp only [runI2cStore, Except.ok.injEq] at h
  subst h
  repeat' first | with_reducible exact HostSide.refl _ | split | apply HostSide.store

theorem i2cAborted_hostSide (h : i2cAborted s = .ok t) : HostSide s t := by
  simp only [i2cAborted, Except.ok.injEq] at h
  subst h
  repeat' first | with_reducible exact HostSide.refl _ | split | apply HostSide.push

theorem runI2cAbortTest_hostSide {b : Nat} (h : runI2cAbortTest b s = .ok t) : HostSide s t := by
  have g := (HostSide.refl s).answered .abortChoice
  exact Except.ok.inj h ▸ HostSide.ite (HostSide.ite (g.push _) g) (HostSide.refl s)

theorem i2cCleanup_hostSide (h : i2cCleanup s = .ok t) : HostSide s t := by
  simp only [i2cCleanup, Except.ok.injEq] at h
  subst h
  repeat' first | with_reducible exact HostSide.refl _ | split | apply HostSide.push

theorem runI2cCleanupTip_hostSide {b : Nat} (h : runI2cCleanupTip b s = .ok t) : HostSide s t := by
  simp only [runI2cCleanupTip, Except.ok.injEq] at h
  subst h
  repeat' first | with_reducible exact HostSide.refl _ | split | apply HostSide.push

theorem runI2cCleanupBusy_hostSide {b : Nat} (h : runI2cCleanupBusy b s = .ok t) : HostSide s t := by
  simp only [runI2cCleanupBusy, Except.ok.injEq] at h
  subst h
  repeat' first | with_reducible exact HostSide.refl _ | split | apply HostSide.push

theorem bpiPreFlags_hostSide (h : bpiPreFlags s = .ok t) : HostSide s t := by
  simp only [bpiPreFlags, Except.ok.injEq] at h
  subst h
  repeat' first | with_reducible exact HostSide.refl _ | split | apply HostSide.push | apply HostSide.setStatus

theorem bpiPostFlags_hostSide (h : bpiPostFlags s = .ok t) : HostSide s t := by
  simp only [bpiPostFlags, Except.ok.injEq] at h
  subst h
  repeat' first | with_reducible exact HostSide.refl _ | split | apply HostSide.push

theorem runBpiForget_hostSide (h : runBpiForget s = .ok t) : HostSide s t := by
  simp only [runBpiForget, Except.ok.injEq] at h
  subst h
  repeat' first | with_reducible exact HostSide.refl _ | split | apply HostSide.setBank

theorem runBpiSelect_hostSide {k : Byte} (h : runBpiSelect k s = .ok t) : HostSide s t := by
  simp only [runBpiSelect, Except.ok.injEq] at h
  subst h
  repeat' first | with_reducible exact HostSide.refl _ | split | apply HostSide.push | apply HostSide.setBank

theorem runBpiVerify_hostSide {k : Byte} (h : runBpiVerify k s = .ok t) : HostSide s t := by
  simp only [runBpiVerify, Except.ok.injEq] at h
  subst h
  repeat' first | with_reducible exact HostSide.refl _ | split | apply HostSide.push | apply HostSide.setBank

theorem runBpiSelected_hostSide {k : Byte} (h : runBpiSelected k s = .ok t) : HostSide s t := by
  simp only [runBpiSelected, Except.ok.injEq] at h
  subst h
  repeat' first | with_reducible exact HostSide.refl _ | split | apply HostSide.setStatus | apply HostSide.setBank

theorem bpiSetCursor_hostSide (h : bpiSetCursor s = .ok t) : HostSide s t := by
  simp only [bpiSetCursor, Except.ok.injEq] at h
  subst h
  repeat' first | with_reducible exact HostSide.refl _ | split | apply HostSide.setStatus | apply HostSide.setCursorAt

theorem runBpiAdvance_hostSide {n : Nat} (h : runBpiAdvance n s = .ok t) : HostSide s t := by
  obtain rfl := Except.ok.inj h
  exact (HostSide.bpiCursor s).setCursorAt _

theorem bpiWriteShot_hostSide {k : Nat} (h : bpiWriteShot k s = .ok t) : HostSide s t := by
  obtain rfl := Except.ok.inj h
  exact (HostSide.bpiCursor s).push _

theorem bpiRequestRead_hostSide {k : Nat} (h : bpiRequestRead k s = .ok t) : HostSide s t := by
  obtain rfl := Except.ok.inj h
  exact (HostSide.bpiCursor s).push _

theorem runBpiReadCommands_hostSide {a : BitVec 24} {l : Nat} (h : runBpiReadCommands a l s = .ok t) : HostSide s t := by
  simp only [runBpiReadCommands, Except.ok.injEq] at h
  subst h
  repeat' first | with_reducible exact HostSide.refl _ | split | apply HostSide.push | apply HostSide.setStatus

theorem bpiReadShot_hostSide {k : Nat} (h : bpiReadShot k s = .ok t) : HostSide s t := by
  simp only [bpiReadShot, Except.ok.injEq] at h
  subst h
  repeat' first | with_reducible exact HostSide.refl _ | split | apply HostSide.push | apply HostSide.setDrv

theorem runBpiTake_hostSide (h : runBpiTake s = .ok t) : HostSide s t := by
  simp only [runBpiTake, Except.ok.injEq] at h
  subst h
  exact (HostSide.refl s).setDrv _

theorem runBpiStore_hostSide {pos : Nat} (h : runBpiStore pos s = .ok t) : HostSide s t := by
  simp only [runBpiStore, Except.ok.injEq] at h
  subst h
  exact (HostSide.refl s).storeWords _ _

theorem bpiWaitReady_hostSide (h : bpiWaitReady s = .ok t) : HostSide s t := by
  simp only [bpiWaitReady, Except.ok.injEq] at h
  subst h
  repeat' first | with_reducible exact HostSide.refl _ | split | apply HostSide.push

theorem runBpiReadyTest_hostSide {seen : Bool} (h : runBpiReadyTest seen s = .ok t) : HostSide s t := by
  have g := (HostSide.refl s).logFifo s.host.last
  exact Except.ok.inj h ▸ HostSide.ite g (HostSide.ite ((g.answered _).setStatus _) ((g.answered _).push _))

theorem bpiAborted_hostSide (h : bpiAborted s = .ok t) : HostSide s t := by
  simp only [bpiAborted, Except.ok.injEq] at h
  subst h
  repeat' first | with_reducible exact HostSide.refl _ | split | apply HostSide.setBank

theorem bpiCleanup_hostSide (h : bpiCleanup s = .ok t) : HostSide s t := by
  simp only [bpiCleanup, Except.ok.injEq] at h
  subst h
  repeat' first | with_reducible exact HostSide.refl _ | split | apply HostSide.push

theorem spi2PreFlags_hostSide (h : spi2PreFlags s = .ok t) : HostSide s t := by
  obtain ⟨u, h⟩ := withBurst_cases h
  simp only [Except.ok.injEq] at h
  subst h
  repeat' first | with_reducible exact HostSide.refl _ | split | apply HostSide.push | apply HostSide.setStatus

theorem spi2PostFlags_hostSide (h : spi2PostFlags s = .ok t) : HostSide s t := by
  obtain ⟨u, h⟩ := withBurst_cases h
  simp only [Except.ok.injEq] at h
  subst h
  repeat' first | with_reducible exact HostSide.refl _ | split | apply HostSide.push

theorem spi2WriteShot_hostSide {k : Nat} (h : spi2WriteShot k s = .ok t) : HostSide s t := by
  obtain ⟨u, h⟩ := withBurst_cases h
  simp only [Except.ok.injEq] at h
  subst h
  repeat' first | with_reducible exact HostSide.refl _ | split | apply HostSide.push

theorem spi2RequestRead_hostSide {k : Nat} (h : spi2RequestRead k s = .ok t) : HostSide s t := by
  obtain ⟨u, h⟩ := withBurst_cases h
  simp only [Except.ok.injEq] at h
  subst h
  repeat' first | with_reducible exact HostSide.refl _ | split | apply HostSide.push

theorem spi2ReadShot_hostSide {k : Nat} (h : spi2ReadShot k s = .ok t) : HostSide s t := by
  simp only [spi2ReadShot, Except.ok.injEq] at h
  subst h
  repeat' first | with_reducible exact HostSide.refl _ | split | apply HostSide.push

theorem runSpi2Store_hostSide {pos n : Nat} (h : runSpi2Store pos n s = .ok t) : HostSide s t := by
  simp only [runSpi2Store, Except.ok.injEq] at h
  subst h
  repeat' first | with_reducible exact HostSide.refl _ | split | apply HostSide.storeBytes

theorem spi2Cleanup_hostSide (h : spi2Cleanup s = .ok t) : HostSide s t := by
  simp only [spi2Cleanup, Except.ok.injEq] at h
  subst h
  repeat' first | with_reducible exact HostSide.refl _ | split | apply HostSide.push

theorem runSpi2DummyRead_hostSide (h : runSpi2DummyRead s = .ok t) : HostSide s t := by
  simp only [runSpi2DummyRead, Except.ok.injEq] at h
  subst h
  repeat' first | with_reducible exact HostSide.refl _ | split | apply HostSide.push

theorem runSpi2DummyDone_hostSide (h : runSpi2DummyDone s = .ok t) : HostSide s t := by
  simp only [runSpi2DummyDone, Except.ok.injEq] at h
  subst h
  constructor <;> rfl

theorem runSpidSampleBit_hostSide (h : runSpidSampleBit s = .ok t) : HostSide s t := by
  simp only [runSpidSampleBit, Except.ok.injEq] at h
  subst h
  repeat' first | with_reducible exact HostSide.refl _ | split | apply HostSide.setDrv

theorem runSpidStoreByte_hostSide {pos : Nat} (h : runSpidStoreByte pos s = .ok t) : HostSide s t := by
  simp only [runSpidStoreByte, Except.ok.injEq] at h
  subst h
  repeat' first | with_reducible exact HostSide.refl _ | split | apply HostSide.store

theorem runSpidSamplePair_hostSide (h : runSpidSamplePair s = .ok t) : HostSide s t := by
  simp only [runSpidSamplePair, Except.ok.injEq] at h
  subst h
  repeat' first | with_reducible exact HostSide.refl _ | split | apply HostSide.setDrv

theorem runSpidStorePair_hostSide {pos : Nat} (h : runSpidStorePair pos s = .ok t) : HostSide s t := by
  simp only [runSpidStorePair, Except.ok.injEq] at h
  subst h
  repeat' first | with_reducible exact HostSide.refl _ | split | apply HostSide.store

theorem runSpidSetCs_hostSide {on : Bool} (h : runSpidSetCs on s = .ok t) : HostSide s t := by
  simp only [runSpidSetCs, Except.ok.injEq] at h
  subst h
  repeat' first | with_reducible exact HostSide.refl _ | split | apply HostSide.push

theorem runSpidCsDone_hostSide {on : Bool} (h : runSpidCsDone on s = .ok t) : HostSide s t := by
  simp only [runSpidCsDone, Except.ok.injEq] at h
  subst h
  constructor <;> rfl

theorem spidPreFlags_hostSide (h : spidPreFlags s = .ok t) : HostSide s t := by
  obtain rfl | ⟨u, h⟩ := withSpidCheck_cases h
  · exact (HostSide.refl s).setStatus _
  simp only [Except.ok.injEq] at h
  subst h
  repeat' first | with_reducible exact HostSide.refl _ | split | apply HostSide.push

theorem spidPostFlags_hostSide (h : spidPostFlags s = .ok t) : HostSide s t := by
  simp only [spidPostFlags, Except.ok.injEq] at h
  subst h
  repeat' first | with_reducible exact HostSide.refl _ | split | apply HostSide.push

theorem spidWriteShot_hostSide {k : Nat} (h : spidWriteShot k s = .ok t) : HostSide s t := by
  obtain rfl | ⟨u, h⟩ := withSpidCheck_cases h
  · exact (HostSide.refl s).setStatus _
  simp only [Except.ok.injEq] at h
  subst h
  repeat' first | with_reducible exact HostSide.refl _ | split | apply HostSide.push

theorem spidReadShot_hostSide {k : Nat} (h : spidReadShot k s = .ok t) : HostSide s t := by
  obtain rfl | ⟨u, h⟩ := withSpidCheck_cases h
  · exact (HostSide.refl s).setStatus _
  simp only [Except.ok.injEq] at h
  subst h
  repeat' first | with_reducible exact HostSide.refl _ | split | apply HostSide.push

theorem spidCleanup_hostSide (h : spidCleanup s = .ok t) : HostSide s t := by
  simp only [spidCleanup, Except.ok.injEq] at h
  subst h
  repeat' first | with_reducible exact HostSide.refl _ | split | apply HostSide.push

theorem runJtagCapture_hostSide {m : Nat} (h : runJtagCapture m s = .ok t) : HostSide s t := by
  simp only [runJtagCapture, Except.ok.injEq] at h
  subst h
  repeat' first | with_reducible exact HostSide.refl _ | split | apply HostSide.setDrv

theorem runJtagSetState_hostSide {xt : JtagState} (h : runJtagSetState xt s = .ok t) : HostSide s t := by
  simp only [runJtagSetState, Except.ok.injEq] at h
  subst h
  repeat' first | with_reducible exact HostSide.refl _ | split | apply HostSide.push | apply HostSide.setStatus

theorem runJtagTracked_hostSide {xt : JtagState} (h : runJtagTracked xt s = .ok t) : HostSide s t := by
  simp only [runJtagTracked, Except.ok.injEq] at h
  subst h
  repeat' first | with_reducible exact HostSide.refl _ | split | apply HostSide.setTracked

theorem runJtagForget_hostSide (h : runJtagForget s = .ok t) : HostSide s t := by
  simp only [runJtagForget, Except.ok.injEq] at h
  subst h
  repeat' first | with_reducible exact HostSide.refl _ | split | apply HostSide.setTracked

theorem jtagPreFlags_hostSide (h : jtagPreFlags s = .ok t) : HostSide s t := by
  simp only [jtagPreFlags, Except.ok.injEq] at h
  subst h
  repeat' first
      | with_reducible exact HostSide.refl _ | split | apply HostSide.push | apply HostSide.setStatus
      | apply HostSide.setScratch

theorem jtagPostFlags_hostSide (h : jtagPostFlags s = .ok t) : HostSide s t := by
  simp only [jtagPostFlags, Except.ok.injEq] at h
  subst h
  repeat' first | with_reducible exact HostSide.refl _ | split | apply HostSide.setTracked

theorem jtagWriteShot_hostSide {k : Nat} (h : jtagWriteShot k s = .ok t) : HostSide s t := by
  obtain ⟨u, h⟩ := withBurst_cases h
  simp only [Except.ok.injEq] at h
  subst h
  repeat' first | with_reducible exact HostSide.refl _ | split | apply HostSide.push

theorem jtagReadShot_hostSide {k : Nat} (h : jtagReadShot k s = .ok t) : HostSide s t := by
  obtain ⟨u, h⟩ := withBurst_cases h
  simp only [Except.ok.injEq] at h
  subst h
  apply HostSide.push
  apply HostSide.setDrv
  split_ifs
  · exact (HostSide.refl s).setScratch _
  · exact HostSide.refl s

theorem runJtagStore_hostSide {k m : Nat} (h : runJtagStore k m s = .ok t) : HostSide s t := by
  simp only [runJtagStore, Except.ok.injEq] at h
  subst h
  apply HostSide.storeStream
  split_ifs
  · exact (HostSide.refl s).setScratch _
  · exact HostSide.refl s

theorem jtagAborted_hostSide (h : jtagAborted s = .ok t) : HostSide s t := by
  simp only [jtagAborted, Except.ok.injEq] at h
  subst h
  repeat' first | with_reducible exact HostSide.refl _ | split | apply HostSide.setTracked

theorem jtagCleanup_hostSide (h : jtagCleanup s = .ok t) : HostSide s t := by
  simp only [jtagCleanup, Except.ok.injEq] at h
  subst h
  repeat' first | with_reducible exact HostSide.refl _ | split | apply HostSide.setScratch

theorem runJtagSetFrequency_hostSide {f : Nat} (h : runJtagSetFrequency f s = .ok t) : HostSide s t := by
  simp only [runJtagSetFrequency, Except.ok.injEq] at h
  subst h
  repeat' first | with_reducible exact HostSide.refl _ | split | apply HostSide.push | apply HostSide.setStatus

theorem runBurstEntry_hostSide {ctl : Controller} {hdr : BurstHeader} {buf : List Half} {addr : Option Nat}
    (h : runBurstEntry ctl hdr buf addr s = .ok t) : HostSide s t := by
  unfold runBurstEntry at h
  split at h
  · cases h
  · simp only [Except.ok.injEq] at h
    subst h
    repeat' first
      | with_reducible exact HostSide.refl _ | split | apply HostSide.push | apply HostSide.setStatus
      | apply HostSide.setDrv

theorem runBurstOpen_hostSide (h : runBurstOpen s = .ok t) : HostSide s t := by
  simp only [runBurstOpen, Except.ok.injEq] at h
  subst h
  repeat' first | with_reducible exact HostSide.refl _ | split | apply HostSide.push | apply HostSide.setBurst

theorem runWriteLoop_hostSide {k : Nat} (h : runWriteLoop k s = .ok t) : HostSide s t := by
  simp only [runWriteLoop, Except.ok.injEq] at h
  subst h
  repeat' first | with_reducible exact HostSide.refl _ | split | apply HostSide.push | apply HostSide.setShot

theorem runReadPrefill_hostSide {kr : Nat} (h : runReadPrefill kr s = .ok t) : HostSide s t := by
  simp only [runReadPrefill, Except.ok.injEq] at h
  subst h
  repeat' first | with_reducible exact HostSide.refl _ | split | apply HostSide.push | apply HostSide.cursorShot

theorem runReadLoop_hostSide {kc kr : Nat} (h : runReadLoop kc kr s = .ok t) : HostSide s t := by
  simp only [runReadLoop, Except.ok.injEq] at h
  subst h
  repeat' first | with_reducible exact HostSide.refl _ | split | apply HostSide.push | apply HostSide.cursorShot

theorem runReadNext_hostSide {kc kr : Nat} (h : runReadNext kc kr s = .ok t) : HostSide s t := by
  simp only [runReadNext, Except.ok.injEq] at h
  subst h
  repeat' first | with_reducible exact HostSide.refl _ | split | apply HostSide.push | apply HostSide.cursorShot

theorem runStateChange_hostSide (h : runStateChange s = .ok t) : HostSide s t := by
  simp only [runStateChange, Except.ok.injEq] at h
  subst h
  repeat' first | with_reducible exact HostSide.refl _ | split | apply HostSide.push | apply HostSide.setShot

theorem runCommandExec_hostSide (h : runCommandExec s = .ok t) : HostSide s t := by
  simp only [runCommandExec, Except.ok.injEq] at h
  subst h
  repeat' first | with_reducible exact HostSide.refl _ | split | apply HostSide.setStatus | apply HostSide.push

theorem runCommand_hostSide {id : RegVal} {payload : List Half} (h : runCommand id payload s = .ok t) : HostSide s t := by
  simp only [runCommand, draw_eq, Except.ok.injEq] at h
  subst h
  have g := ((HostSide.refl s).answered (.commandWord s.host.drv.ctl.unit id payload true)).answered
    (.commandWord s.host.drv.ctl.unit id payload false)
  split
  · exact g.push _
  · exact (g.answered _).setStatus _

theorem runCleanup_hostSide {c : Controller} (h : runCleanup c s = .ok t) : HostSide s t := by
  unfold runCleanup at h
  split at h
  · cases h
  · cases c
    · dsimp only at h
      split at h
      · exact i2cCleanup_hostSide h
      · obtain rfl := Except.ok.inj h
        exact (HostSide.refl s).setStatus _
    · exact i2cCleanup_hostSide h
    · exact bpiCleanup_hostSide h
    · exact spi2Cleanup_hostSide h
    · exact spidCleanup_hostSide h
    · exact jtagCleanup_hostSide h

theorem runPreFlags_hostSide (h : runPreFlags s = .ok t) : HostSide s t := by
  unfold runPreFlags at h
  split at h
  · exact i2cPreFlags_hostSide h
  · exact i2cPreFlags_hostSide h
  · exact bpiPreFlags_hostSide h
  · exact spi2PreFlags_hostSide h
  · exact spidPreFlags_hostSide h
  · exact jtagPreFlags_hostSide h

theorem runPostFlags_hostSide (h : runPostFlags s = .ok t) : HostSide s t := by
  unfold runPostFlags at h
  split at h
  · exact i2cPostFlags_hostSide h
  · exact i2cPostFlags_hostSide h
  · exact bpiPostFlags_hostSide h
  · exact spi2PostFlags_hostSide h
  · exact spidPostFlags_hostSide h
  · exact jtagPostFlags_hostSide h

theorem runWriteShot_hostSide {k : Nat} (h : runWriteShot k s = .ok t) : HostSide s t := by
  unfold runWriteShot at h
  split at h
  · exact i2cWriteShot_hostSide h
  · exact i2cWriteShot_hostSide h
  · exact bpiWriteShot_hostSide h
  · exact spi2WriteShot_hostSide h
  · exact spidWriteShot_hostSide h
  · exact jtagWriteShot_hostSide h

theorem runRequestRead_hostSide {k : Nat} (h : runRequestRead k s = .ok t) : HostSide s t := by
  unfold runRequestRead at h
  split at h
  · exact i2cRequestRead_hostSide h
  · exact i2cRequestRead_hostSide h
  · exact bpiRequestRead_hostSide h
  · exact spi2RequestRead_hostSide h
  · exact Except.ok.inj h ▸ HostSide.refl s
  · exact Except.ok.inj h ▸ HostSide.refl s

theorem runReadShot_hostSide {k : Nat} (h : runReadShot k s = .ok t) : HostSide s t := by
  unfold runReadShot at h
  split at h
  · exact i2cReadShot_hostSide h
  · exact i2cReadShot_hostSide h
  · exact bpiReadShot_hostSide h
  · exact spi2ReadShot_hostSide h
  · exact spidReadShot_hostSide h
  · exact jtagReadShot_hostSide h

theorem runWaitWriteQueue_hostSide (h : runWaitWriteQueue s = .ok t) : HostSide s t := by
  unfold runWaitWriteQueue at h
  split at h
  · exact bpiWaitReady_hostSide h
  · exact Except.ok.inj h ▸ HostSide.refl s

theorem runAborted_hostSide (h : runAborted s = .ok t) : HostSide s t := by
  unfold runAborted at h
  split at h
  · exact i2cAborted_hostSide h
  · exact i2cAborted_hostSide h
  · exact bpiAborted_hostSide h
  · exact jtagAborted_hostSide h
  · exact Except.ok.inj h ▸ HostSide.refl s

theorem runSetCursor_hostSide (h : runSetCursor s = .ok t) : HostSide s t := by
  unfold runSetCursor at h
  split at h
  · exact bpiSetCursor_hostSide h
  · exact Except.ok.inj h ▸ HostSide.refl s

/-- A point of a host procedure touches no unit of the block. -/
theorem runProc_hostSide {p : Proc} (h : runProc p s = .ok t) : HostSide s t := by
  cases p with
  | burstEntry => exact runBurstEntry_hostSide h
  | burstOpen => exact runBurstOpen_hostSide h
  | setCursor => exact runSetCursor_hostSide h
  | writeLoop => exact runWriteLoop_hostSide h
  | readPrefill => exact runReadPrefill_hostSide h
  | readLoop => exact runReadLoop_hostSide h
  | readNext => exact runReadNext_hostSide h
  | stateChange => exact runStateChange_hostSide h
  | commandExec => exact runCommandExec_hostSide h
  | command => exact runCommand_hostSide h
  | preFlags => exact runPreFlags_hostSide h
  | postFlags => exact runPostFlags_hostSide h
  | aborted => exact runAborted_hostSide h
  | cleanup => exact runCleanup_hostSide h
  | writeShot => exact runWriteShot_hostSide h
  | requestRead => exact runRequestRead_hostSide h
  | readShot => exact runReadShot_hostSide h
  | waitWriteQueue => exact runWaitWriteQueue_hostSide h
  | pollTest => exact runPollTest_hostSide h
  | i2cActivate => exact runI2cActivate_hostSide h
  | i2cSelect => exact runI2cSelect_hostSide h
  | i2cProgram => exact runI2cProgram_hostSide h
  | i2cReadHi => exact runI2cReadHi_hostSide h
  | i2cVerify => exact runI2cVerify_hostSide h
  | i2cEnable => exact runI2cEnable_hostSide h
  | i2cEnableTest => exact runI2cEnableTest_hostSide h
  | i2cForget => exact runI2cForget_hostSide h
  | i2cCheckAck => exact runI2cCheckAck_hostSide h
  | i2cStore => exact runI2cStore_hostSide h
  | i2cAbortTest => exact runI2cAbortTest_hostSide h
  | i2cCleanupTip => exact runI2cCleanupTip_hostSide h
  | i2cCleanupBusy => exact runI2cCleanupBusy_hostSide h
  | bpiSelect => exact runBpiSelect_hostSide h
  | bpiVerify => exact runBpiVerify_hostSide h
  | bpiSelected => exact runBpiSelected_hostSide h
  | bpiForget => exact runBpiForget_hostSide h
  | bpiReadCommands => exact runBpiReadCommands_hostSide h
  | bpiAdvance => exact runBpiAdvance_hostSide h
  | bpiReadyTest => exact runBpiReadyTest_hostSide h
  | bpiTake => exact runBpiTake_hostSide h
  | bpiStore => exact runBpiStore_hostSide h
  | spi2Store => exact runSpi2Store_hostSide h
  | spi2DummyRead => exact runSpi2DummyRead_hostSide h
  | spi2DummyDone => exact runSpi2DummyDone_hostSide h
  | spidSetCs => exact runSpidSetCs_hostSide h
  | spidCsDone => exact runSpidCsDone_hostSide h
  | spidSampleBit => exact runSpidSampleBit_hostSide h
  | spidStoreByte => exact runSpidStoreByte_hostSide h
  | spidSamplePair => exact runSpidSamplePair_hostSide h
  | spidStorePair => exact runSpidStorePair_hostSide h
  | jtagSetState => exact runJtagSetState_hostSide h
  | jtagTracked => exact runJtagTracked_hostSide h
  | jtagForget => exact runJtagForget_hostSide h
  | jtagCapture => exact runJtagCapture_hostSide h
  | jtagStore => exact runJtagStore_hostSide h
  | jtagSetFrequency => exact runJtagSetFrequency_hostSide h

end Sys2Proof.Machine
end

