-- ==== Sys2Proof/Laws/Steps.lean ====
section
/-! SUPPORT. What the unit steps leave as it was: a unit's step changes the state of its unit only, but for the environment and
the history (R83). -/

namespace Sys2Proof.Machine

variable {us : List UnitId} {s t : State}

theorem Within.answered (h : Within us s t) (q : Oracle) : Within us s (t.answered q) := h.trans (within_answered _ _ q)

theorem Within.record (h : Within us s t) (e : Event) : Within us s (t.record e) := h.trans (within_record _ _ e)

theorem Within.ite {c : Prop} [Decidable c] {a b : State} (ha : Within us s a) (hb : Within us s b) :
    Within us s (if c then a else b) := by
  split
  · exact ha
  · exact hb

/-! ## I2C -/

theorem within_setBusy (b : Nat) (x : Bool) (s : State) : Within [.i2c] s (s.setBusy b x) := by constructor <;> simp

theorem within_startIf (sta : Bool) (b : Nat) (s : State) : Within [.i2c] s (startIf sta b s) :=
  Within.ite (within_setBusy _ _ _) (Within.refl _ _)

theorem within_stopIf (sto : Bool) (b : Nat) (s : State) : Within [.i2c] s (stopIf sto b s) :=
  Within.ite (within_setBusy _ _ _) (Within.refl _ _)

theorem within_ackOf (x : Bool) (b : Nat) (d : Byte) (s : State) : Within us s (ackOf x b d s).2 := by
  unfold ackOf
  split
  · exact within_answered _ _ _
  · exact Within.refl _ _

theorem within_readByteOf (x : Bool) (b : Nat) (nack : Bool) (s : State) : Within us s (readByteOf x b nack s).2 := by
  unfold readByteOf
  split <;> exact within_answered _ _ _

theorem within_rxack (s : State) (x : Bool) : Within [.i2c] s { s with i2c := { s.i2c with rxack := x } } := by
  constructor <;> simp

theorem within_rx (s : State) (x : Option Byte) : Within [.i2c] s { s with i2c := { s.i2c with rx := x } } := by
  constructor <;> simp

/-- The I2C unit's completion step. -/
theorem within_i2cStep (s : State) : Within [.i2c] s (i2cStep s) := by
  unfold i2cStep
  split
  · exact (((within_startIf _ _ s).trans (within_ackOf _ _ _ _)).trans ((within_rxack _ _).trans
      ((within_stopIf _ _ _).trans (within_endTransfer _)))).record _
  · exact (((within_startIf _ _ s).trans (within_readByteOf _ _ _ _)).trans ((within_rx _ _).trans
      ((within_stopIf _ _ _).trans (within_endTransfer _)))).record _
  · exact ((within_setBusy _ _ s).trans (within_endTransfer _)).record _
  · exact Within.refl _ s

/-! ## BPI and the CPLD -/

theorem within_bpi (s : State) (u : BpiUnit) : Within [.bpi] s { s with bpi := u } := by constructor <;> simp

theorem within_flashRead (s : State) : Within us s (flashRead s).2 := by
  unfold flashRead
  split_ifs <;> exact within_answered _ _ _

theorem within_flashStatus (s : State) : Within us s (flashStatus s).2 := by
  unfold flashStatus
  split <;> exact within_answered _ _ _

theorem within_pushWord (w : Half) (s : State) : Within [.bpi] s (s.pushWord w) := within_bpi _ _

theorem within_bpiFinish (c : RegVal) (s : State) : Within [.bpi] s (bpiFinish c s) := (within_bpi s _).record _

theorem within_bpiAssert (c : RegVal) (s : State) : Within [.bpi] s (bpiAssert c s) :=
  Within.ite (within_bpi _ _) (Within.refl _ _)

theorem within_bpiLoad (c : RegVal) (s : State) : Within [.bpi] s (bpiLoad c s) :=
  Within.ite (within_bpi _ _) (Within.refl _ _)

theorem within_bpiStatusStep (c : RegVal) (s : State) : Within [.bpi] s (bpiStatusStep c s) := by
  have h := (within_flashStatus (us := [.bpi]) s).trans (within_pushWord (flashStatus s).1 _)
  exact Within.ite (h.trans ((within_bpi _ _).trans (within_bpiFinish _ _))) h

theorem within_bpiBurstStep (c : RegVal) (s : State) : Within [.bpi] s (bpiBurstStep c s) := by
  have h := fun u => ((within_bpi s u).trans (within_flashRead (us := [.bpi]) { s with bpi := u })).trans
    (within_pushWord (flashRead { s with bpi := u }).1 _)
  exact Within.ite ((h _).trans (within_bpiFinish _ _)) (h _)

theorem within_bpiReadWord (s : State) : Within [.bpi] s (bpiReadWord s) :=
  ((within_flashRead s).trans (within_pushWord _ _)).trans (within_bpi _ _)

theorem within_bpiReadInc (s : State) : Within [.bpi] s (bpiReadInc s) :=
  ((within_bpi s _).trans ((within_flashRead _).trans (within_pushWord _ _))).trans (within_bpi _ _)

theorem within_bpiWriteWord (c : RegVal) (s : State) : Within [.bpi] s (bpiWriteWord c s) := by
  have h : Within [.bpi] s (if cmdInc c then { s with bpi := { s.bpi with addr := nextFlashAddr s.cfg s.bpi.addr } }
      else s) := Within.ite (within_bpi _ _) (Within.refl _ _)
  exact (Within.ite (h.record _) h).trans (within_bpi _ _)

theorem within_bpiAccess (c : RegVal) (s : State) : Within [.bpi] s (bpiAccess c s) := by
  unfold bpiAccess
  exact Within.ite ((within_bpi s _).trans (within_bpiBurstStep _ _)) (Within.ite
    ((Within.ite (within_bpiReadInc s) (within_bpiReadWord s)).trans (within_bpiFinish _ _)) (Within.ite
      ((within_bpiWriteWord c s).trans (within_bpiFinish _ _)) (Within.ite
        ((within_bpi s _).trans (within_bpiStatusStep _ _)) (within_bpiFinish _ _))))

theorem bpiStart_cases {c : RegVal} (h : bpiStart c s = .ok t) :
    bpiStartFault c s = none ∧ t = bpiAccess c (bpiLoad c (bpiAssert c s)) := by
  unfold bpiStart at h
  split at h
  · cases h
  · exact ⟨‹_›, (Except.ok.inj h).symm⟩

/-- Everything one step of the engine can do. -/
theorem bpiStep_cases (h : bpiStep s = .ok t) :
    (s.bpi.cmdq = [] ∧ t = s) ∨ ∃ c rest, s.bpi.cmdq = c :: rest ∧
      ((s.bpi.waiting = true ∧ t = bpiStatusStep c s) ∨
       (s.bpi.waiting = false ∧ s.bpi.burstLeft ≠ 0 ∧ t = bpiBurstStep c s) ∨
       (s.bpi.waiting = false ∧ s.bpi.burstLeft = 0 ∧ bpiStartFault c s = none ∧
        t = bpiAccess c (bpiLoad c (bpiAssert c s)))) := by
  unfold bpiStep at h
  split at h
  · exact .inl ⟨‹_›, (Except.ok.inj h).symm⟩
  · refine .inr ⟨_, _, ‹_›, ?_⟩
    split_ifs at h with hw hb
    · exact .inl ⟨hw, (Except.ok.inj h).symm⟩
    · exact .inr (.inl ⟨eq_false_of_ne_true hw, hb, (Except.ok.inj h).symm⟩)
    · exact .inr (.inr ⟨eq_false_of_ne_true hw, by omega, bpiStart_cases h⟩)

/-- The BPI engine's step. -/
theorem within_bpiStep (h : bpiStep s = .ok t) : Within [.bpi] s t := by
  obtain ⟨-, rfl⟩ | ⟨c, rest, -, ⟨-, rfl⟩ | ⟨-, -, rfl⟩ | ⟨-, -, -, rfl⟩⟩ := bpiStep_cases h
  · exact Within.refl _ _
  · exact within_bpiStatusStep _ _
  · exact within_bpiBurstStep _ _
  · exact (within_bpiAssert _ _).trans ((within_bpiLoad _ _).trans (within_bpiAccess _ _))

theorem within_cpldBank (s : State) : Within us s (cpldBank s).2 := by
  have h : Within us s (if s.cpld.bankRegKnown then (s.cpld.bankReg, s) else drawByte .cpldUnknown s).2 := by
    split
    · exact Within.refl _ _
    · exact within_answered _ _ _
  unfold cpldBank
  simp only
  split
  · exact h
  · exact h.trans (within_answered _ _ _)

theorem within_cpld (s : State) (u : Cpld) : Within [.bpi] s { s with cpld := u } := by constructor <;> simp

/-- The CPLD's completion step. -/
theorem within_cpldStep (s : State) : Within [.bpi] s (cpldStep s) :=
  ((within_cpldBank s).trans (within_cpld _ _)).record _

/-! ## SPI-v2 -/

theorem within_spi2 (s : State) (u : Spi2Unit) : Within [.spi2] s { s with spi2 := u } := by constructor <;> simp

theorem within_spi2WriteBytes (ctl : Spi2Ctl) (txd : RegVal) (d : Bool) (n i : Nat) (s : State) :
    Within us s (spi2WriteBytes ctl txd d n i s) := by
  induction n generalizing i s with
  | zero => exact Within.refl _ s
  | succ n ih => exact (within_record _ s _).trans (ih _ _)

theorem within_spi2ReadByte (ctl : Spi2Ctl) (d : Bool) (s : State) : Within us s (spi2ReadByte ctl d s).2 := by
  unfold spi2ReadByte
  split <;> exact within_answered _ _ _

theorem within_spi2ReadBytes (ctl : Spi2Ctl) (d : Bool) (n i : Nat) (e : RegVal) (s : State) :
    Within us s (spi2ReadBytes ctl d n i e s).2 := by
  induction n generalizing i e s with
  | zero => exact Within.refl _ s
  | succ n ih => exact (within_spi2ReadByte ctl d s).trans (ih _ _ _)

theorem within_spi2ReadAccess (ctl : Spi2Ctl) (d : Bool) (s : State) : Within [.spi2] s (spi2ReadAccess ctl d s) :=
  ((within_spi2ReadBytes _ _ _ _ _ s).trans (within_spi2 _ _)).record _

theorem within_spi2Perform (a : Spi2Access) (s : State) : Within [.spi2] s (spi2Perform a s) := by
  unfold spi2Perform
  exact Within.ite (((within_spi2 s _).trans ((within_spi2 _ _).trans
    (Within.ite (within_spi2ReadAccess _ _ _) (within_spi2WriteBytes _ _ _ _ _ _)))).record _)
    ((within_spi2 s _).record _)

/-- The SPI-v2 unit's step. -/
theorem within_spi2Step (h : spi2Step s = .ok t) : Within [.spi2] s t := by
  unfold spi2Step at h
  split at h
  · cases h; exact Within.refl _ _
  · split at h
    · cases h
    · cases h; exact (within_spi2 s _).trans (within_spi2Perform _ _)

/-! ## JTAG -/

theorem within_jtagClock (tms tdi : Bool) (s : State) : Within [.jtag] s (jtagClock tms tdi s).2 := by
  constructor <;> simp [jtagClock]

theorem within_jtagClocks (f : JtagFrame) (n i : Nat) (out : Half) (s : State) :
    Within [.jtag] s (jtagClocks f n i out s).2 := by
  induction n generalizing i out s with
  | zero => exact Within.refl _ s
  | succ n ih => exact (within_jtagClock _ _ s).trans (ih _ _ _)

theorem within_jtag (s : State) (u : JtagUnit) : Within [.jtag] s { s with jtag := u } := by constructor <;> simp

/-- The JTAG unit's completion step. -/
theorem within_jtagStep (s : State) : Within [.jtag] s (jtagStep s) :=
  (within_jtagClocks _ _ _ _ s).trans (within_jtag _ _)

end Sys2Proof.Machine
end

