-- ==== Sys2Proof/Laws/Invariant.lean ====
section
/-! SUPPORT. The invariant of Safety.lean across one effect or one unit step. -/

namespace Sys2Proof.Machine

variable {s t : State}

/-- An effect on some units keeps the invariant when it keeps the clauses of those units. -/
theorem Inv.of_within {us} (h : Inv s) (w : Within us s t)
   (hi : .i2c ∈ us → I2cInv t.cfg t.i2c) (hb : .bpi ∈ us → BpiInv t.cfg t.bpi)
   (hs : .spi2 ∈ us → t.spi2.ctrl.valid = false) (hj : .jtag ∈ us → t.jtag.presc.toNat < 2 ^ t.cfg.jtagPrescalerBits) :
    Inv t where
  i2c := by by_cases x : UnitId.i2c ∈ us; exact hi x; rw [w.cfg, w.i2c x]; exact h.i2c
  bpi := by by_cases x : UnitId.bpi ∈ us; exact hb x; rw [w.cfg, w.bpi x]; exact h.bpi
  latched_valid := by by_cases x : UnitId.spi2 ∈ us; exact hs x; rw [w.spi2 x]; exact h.latched_valid
  presc_fits := by by_cases x : UnitId.jtag ∈ us; exact hj x; rw [w.cfg, w.jtag x]; exact h.presc_fits
  path := by rw [w.cfg, w.path]; exact h.path
  host := by rw [w.host]; exact h.host
  domains := by rw [w.cfg, w.others]; exact h.domains
  others := by rw [w.cfg, w.others]; exact h.others

theorem redrawBanks_core (n b : Nat) (s : State) : (redrawBanks n b s).i2c.tip = s.i2c.tip ∧ (redrawBanks n b
    s).i2c.pending = s.i2c.pending ∧ (redrawBanks n b s).i2c.en = s.i2c.en ∧ (redrawBanks n b s).i2c.enKnown = s.i2c.enKnown := by
  obtain ⟨a, h, -, -⟩ := redrawBanks_spec n b s
  rw [h]; simp

theorem accessFault_bank {c : Config} {i : Instr} {b} (h : accessFault c i = none) (hb : i.bank? = some b) : b <
    c.i2cNumBanks := by
  unfold accessFault at h
  by_contra hn
  have : c.i2cNumBanks ≤ b := by omega
  simp [hb, this] at h

theorem writeEffect_inv {i : Instr} (h : writeEffect i s = .ok t) (hs : Inv s) (ha : accessFault s.cfg i = none)
   (hr : hasRoom i s = true) (hwr : i.isWrite = true) : Inv t := by
  have w := writeEffect_within h
  obtain ⟨h1, h2, h3⟩ := hs.i2c
  obtain ⟨b1,b2,b3,b4,b5,b6,b7,b8,b9⟩ := hs.bpi
  refine hs.of_within w ?_ ?_ ?_ ?_ <;> intro hm <;> cases i <;> simp [Instr.unit] at hm <;>
    simp only [writeEffect, performI2cWpreLo, performI2cWpreHi, performI2cWctrl, performI2cWrite, performI2cRead,
    performI2cStop, startTransfer,
      performBpiCmd, performBpiWbank, performSpi2Wctrl, performSpi2Wdata, performJtagShift,
      performJtagWpresc] at h
  case refine_1.i2cWctrl =>
    cases h
    constructor
    · split_ifs
      · simp [redrawBanks_core, h1]
      · unfold abandonTransfer; split <;> simp [redrawBusy_eq]
      · simp [h1]
    · split_ifs
      · simpa [redrawBanks_core, (within_redrawBanks _ _ _).cfg] using h2
      · unfold abandonTransfer; split <;> simp [redrawBusy_eq]
      · simpa using h2
    · split_ifs with x y
      · simp [redrawBanks_core, I2cUnit.enabled]; simp at x; simp [x]
      · unfold abandonTransfer; split <;> simp [redrawBusy_eq]
      · simp [I2cUnit.enabled] at *; intro z; cases b_1 : ‹Bool› <;> simp_all
  case refine_1.i2cWpreLo => split at h <;> cases h; exact ⟨h1, h2, h3⟩
  case refine_1.i2cWpreHi => split at h <;> cases h; exact ⟨h1, h2, h3⟩
  case refine_1.i2cWrite =>
    obtain ⟨u, hu, rfl⟩ := mapOk_cases h
    split at hu <;> cases hu
    rename_i hx
    refine ⟨rfl, ?_, ?_⟩
    · rintro op ⟨⟩; exact accessFault_bank ha rfl
    · intro _; unfold transferFault at hx; split_ifs at hx; simp_all [I2cUnit.enabled]
  case refine_1.i2cRead =>
    split at h <;> cases h
    rename_i hx
    refine ⟨rfl, ?_, ?_⟩
    · rintro op ⟨⟩; exact accessFault_bank ha rfl
    · intro _; unfold transferFault at hx; split_ifs at hx; simp_all [I2cUnit.enabled]
  case refine_1.i2cStop =>
    split at h <;> cases h
    rename_i hx
    refine ⟨rfl, ?_, ?_⟩
    · rintro op ⟨⟩; exact accessFault_bank ha rfl
    · intro _; unfold transferFault at hx; split_ifs at hx; simp_all [I2cUnit.enabled]
  case refine_2.bpiCmd =>
    cases h
    simp [hasRoom] at hr
    exact ⟨by simp; omega, b2, b3, b4, by simp, b6, b7, b8, b9⟩
  case refine_2.bpiWbank => cases h; exact hs.bpi
  case refine_3.spi2Wctrl => cases h; exact hs.latched_valid
  case refine_3.spi2Wdata => cases h; exact hs.latched_valid
  case refine_4.jtagShift => split at h <;> cases h; exact hs.presc_fits
  case refine_4.jtagWpresc =>
    split at h <;> cases h
    simp [prescOf]
    exact lt_of_le_of_lt (Nat.mod_le _ _) (Nat.mod_lt _ (by positivity))
  all_goals simp_all [Instr.isWrite, Instr.isRead, Instr.isHost]


theorem readEffect_inv {i : Instr} {v} (h : readEffect i s = .ok (v, t)) (hs : Inv s) : Inv t := by
  have w := readEffect_within h
  refine hs.of_within w ?_ ?_ ?_ ?_ <;> intro hm <;> split_ifs at hm with h1 h2 <;> simp at hm
  · subst h1
    obtain ⟨b1,b2,b3,b4,b5,b6,b7,b8,b9⟩ := hs.bpi
    simp only [readEffect, readBpiData, drawBit_eq] at h
    split at h <;> cases h
    · exact hs.bpi
    · rename_i hq
      refine ⟨b1, ?_, b3, b4, b5, b6, b7, b8, b9⟩
      simp only [State.answered_cfg]
      rw [hq] at b2; simp at b2; omega
  · subst h2
    simp only [readEffect, readSpi2Data] at h
    split at h <;> cases h
    exact hs.latched_valid

theorem i2cStep_inv (hs : Inv s) : Inv (i2cStep s) := by
  refine hs.of_within (within_i2cStep s) ?_ ?_ ?_ ?_ <;> intro hm <;> simp at hm
  unfold i2cStep
  split
  · exact ⟨by simp [completeI2cWrite], by simp [completeI2cWrite], by simp [completeI2cWrite]⟩
  · exact ⟨by simp [completeI2cRead], by simp [completeI2cRead], by simp [completeI2cRead]⟩
  · exact ⟨by simp [completeI2cStop], by simp [completeI2cStop], by simp [completeI2cStop]⟩
  · exact hs.i2c

theorem cpldStep_inv (hs : Inv s) : Inv (cpldStep s) := by
  refine hs.of_within (within_cpldStep s) ?_ ?_ ?_ ?_ <;> intro hm <;> simp at hm
  have : (cpldStep s).bpi = s.bpi := by
    have h : ∀ x : Byte × State, x.2.bpi = s.bpi → (if s.cfg.bpiCpldReliable then x else
       (if ((drawBit .cpldTook x.2).1) then x.1 else s.cpld.bankEff, (drawBit .cpldTook x.2).2)).2.bpi = s.bpi := by
      intro x hx; split <;> simp [hx]
    unfold cpldStep cpldBank
    simp only [State.record_bpi]
    apply h
    split <;> simp
  rw [this, (within_cpldStep s).cfg]; exact hs.bpi

theorem spi2ReadBytes_spi2 (c d n i e) (s : State) : (spi2ReadBytes c d n i e s).2.spi2 = s.spi2 :=
    (within_spi2ReadBytes (us := []) _ _ _ _ _ s).spi2 (by simp)

theorem spi2WriteBytes_spi2 (c d x n i) (s : State) : (spi2WriteBytes c d x n i s).spi2 = s.spi2 :=
    (within_spi2WriteBytes (us := []) _ _ _ _ _ s).spi2 (by simp)

theorem spi2Step_inv (h : spi2Step s = .ok t) (hs : Inv s) : Inv t := by
  refine hs.of_within (within_spi2Step h) ?_ ?_ ?_ ?_ <;> intro hm <;> simp at hm
  unfold spi2Step at h
  split at h
  · cases h; exact hs.latched_valid
  · split at h
    · cases h
    · cases h
      unfold spi2Perform
      split_ifs
      · simp only [State.record_spi2, spi2ReadAccess]
        rw [spi2ReadBytes_spi2]
      · simp only [State.record_spi2]
        rw [spi2WriteBytes_spi2]
      · rfl

theorem jtagClocks_jtag (f : JtagFrame) (n i : Nat) (out : Half) (s : State) : (jtagClocks f n i out s).2.jtag = s.jtag := by
  induction n generalizing i out s with
  | zero => rfl
  | succ n ih => rw [jtagClocks, ih]; rfl

theorem jtagStep_inv (hs : Inv s) : Inv (jtagStep s) := by
  refine hs.of_within (within_jtagStep s) ?_ ?_ ?_ ?_ <;> intro hm <;> simp at hm
  simp only [jtagStep, jtagClocks_jtag]
  rw [(within_jtagClocks _ _ _ _ s).cfg]; exact hs.presc_fits

theorem flashRead_bpi (s : State) : (flashRead s).2.bpi = s.bpi := (within_flashRead (us := []) s).bpi (by simp)

theorem flashStatus_bpi (s : State) : (flashStatus s).2.bpi = s.bpi := (within_flashStatus (us := []) s).bpi (by simp)

theorem flashRead_cfg (s : State) : (flashRead s).2.cfg = s.cfg := (within_flashRead (us := []) s).cfg

theorem masked_inside (a m : BitVec 24) : (a &&& m) &&& ~~~m = 0 := by ext; simp

theorem BpiInv.finish {c : Config} {u : BpiUnit} (cmd : RegVal) (h : BpiInv c u) (hw : u.waiting = false) (hb :
    u.burstLeft = 0) :
   BpiInv c { u with
      cs := if cmdDeassertCs cmd then false else u.cs
      csKnown := if cmdDeassertCs cmd then true else u.csKnown
      cmdq := u.cmdq.tail } := by
  obtain ⟨b1,b2,b3,b4,b5,b6,b7,b8,b9⟩ := h
  refine ⟨?_, b2, b3, b4, ?_, ?_, ?_, ?_, b9⟩ <;> simp_all
  omega

theorem finish_inv {c : Config} {x : State} (cmd : RegVal) (h : BpiInv c x.bpi) (hw : x.bpi.waiting = false) (hb :
    x.bpi.burstLeft = 0) :
   BpiInv c (bpiFinish cmd x).bpi := BpiInv.finish cmd h hw hb

theorem statusStep_inv {c} (hs : BpiInv s.cfg s.bpi) (hw : s.bpi.waiting = true) (hl : s.bpi.rdq.length <
    s.cfg.bpiReadFifoDepth) :
   BpiInv s.cfg (bpiStatusStep c s).bpi := by
  obtain ⟨b1,b2,b3,b4,b5,b6,b7,b8,b9⟩ := hs
  unfold bpiStatusStep
  simp only
  split
  · simp only [bpiFinish, State.record_bpi, State.pushWord_bpi, flashStatus_bpi]
    apply BpiInv.finish (u := { s.bpi with rdq := s.bpi.rdq ++ [(flashStatus s).1], waiting := false})
    · refine ⟨b1, by simp; omega, b3, b4, ?_, ?_, ?_, b8, b9⟩ <;> simp_all
    · rfl
    · exact b6 hw
  · simp only [State.pushWord_bpi, flashStatus_bpi]
    exact ⟨b1, by simp; omega, b3, b4, b5, b6, b7, b8, b9⟩

theorem burstStep_inv {c} (hs : BpiInv s.cfg s.bpi) (hw : s.bpi.burstLeft ≠ 0) (hl : s.bpi.rdq.length <
    s.cfg.bpiReadFifoDepth) :
   BpiInv s.cfg (bpiBurstStep c s).bpi := by
  obtain ⟨b1,b2,b3,b4,b5,b6,b7,b8,b9⟩ := hs
  have hwf : s.bpi.waiting = false := by by_contra h; simp at h; exact hw (b6 h)
  unfold bpiBurstStep
  simp only
  split
  · rename_i h0
    simp only [State.pushWord_bpi, flashRead_bpi] at h0
    refine finish_inv c ?_ ?_ ?_
    rotate_left
    · simp only [State.pushWord_bpi, flashRead_bpi]; exact hwf
    · simp only [State.pushWord_bpi, flashRead_bpi]; exact h0
    simp only [State.pushWord_bpi, flashRead_bpi]
    refine ⟨b1, by simp; omega, by simp; omega, b4, ?_, ?_, b7, ?_, ?_⟩ <;> simp_all [nextFlashAddr, masked_inside]
  · simp only [State.pushWord_bpi, flashRead_bpi]
    refine ⟨b1, by simp; omega, by simp; omega, b4, ?_, ?_, b7, ?_, ?_⟩ <;> simp_all [nextFlashAddr, masked_inside]

theorem readInc_inv {u : State} {g : Config} (c) (h : BpiInv g u.bpi) (hcfg : u.cfg = g) (hl : u.bpi.rdq.length <
    g.bpiReadFifoDepth) (hwu : u.bpi.waiting = false) (hbu : u.bpi.burstLeft = 0) :
   BpiInv g (bpiFinish c (bpiReadInc u)).bpi := by
  obtain ⟨c1,c2,c3,c4,c5,c6,c7,c8,c9⟩ := h
  have e : (bpiReadInc u).bpi = { u.bpi with
      rdq := (bpiReadInc u).bpi.rdq
      addr := nextFlashAddr u.cfg u.bpi.addr
      primed := if u.bpi.primed = 1 ∨ u.bpi.primed = 2 then u.bpi.primed + 1 else u.bpi.primed } := by
    simp only [bpiReadInc, State.pushWord_bpi, flashRead_bpi]
  have e2 : (bpiReadInc u).bpi.rdq.length = u.bpi.rdq.length + 1 := by
    simp only [bpiReadInc, State.pushWord_bpi, flashRead_bpi]; simp
  apply finish_inv
  · rw [e]
    refine ⟨c1, ?_, c3, ?_, ?_, c6, c7, ?_, ?_⟩
    · simp only [e2]; omega
    · simp only; split_ifs <;> omega
    · simp [hwu, hbu]
    · simp [hbu]
    · simp [nextFlashAddr, masked_inside, hcfg]
  · rw [e]; exact hwu
  · rw [e]; exact hbu

theorem readWord_inv {u : State} {g : Config} (c) (h : BpiInv g u.bpi) (hl : u.bpi.rdq.length < g.bpiReadFifoDepth)
    (hwu : u.bpi.waiting = false) (hbu : u.bpi.burstLeft = 0) :
   BpiInv g (bpiFinish c (bpiReadWord u)).bpi := by
  obtain ⟨c1,c2,c3,c4,c5,c6,c7,c8,c9⟩ := h
  have e : (bpiReadWord u).bpi = { u.bpi with rdq := (bpiReadWord u).bpi.rdq, primed := 1 } := by
    simp only [bpiReadWord, State.pushWord_bpi, flashRead_bpi]
  have e2 : (bpiReadWord u).bpi.rdq.length = u.bpi.rdq.length + 1 := by
    simp only [bpiReadWord, State.pushWord_bpi, flashRead_bpi]; simp
  apply finish_inv
  · rw [e]
    refine ⟨c1, ?_, c3, ?_, ?_, c6, c7, ?_, c9⟩
    · simp only [e2]; omega
    · simp
    · simp [hwu, hbu]
    · simp [hbu]
  · rw [e]; exact hwu
  · rw [e]; exact hbu

theorem writeWord_inv {u : State} {g : Config} (c) (h : BpiInv g u.bpi) (hcfg : u.cfg = g) (hwu : u.bpi.waiting =
    false) (hbu : u.bpi.burstLeft = 0) :
   BpiInv g (bpiFinish c (bpiWriteWord c u)).bpi := by
  obtain ⟨c1,c2,c3,c4,c5,c6,c7,c8,c9⟩ := h
  have : ∃ a, (bpiWriteWord c u).bpi = { u.bpi with addr := a, primed := 0 } ∧ (a = u.bpi.addr ∨ a = nextFlashAddr
    u.cfg u.bpi.addr) := by
    unfold bpiWriteWord; simp only; split_ifs
    · exact ⟨_, rfl, .inr rfl⟩
    · exact ⟨_, rfl, .inr rfl⟩
    · exact ⟨_, rfl, .inl rfl⟩
    · exact ⟨_, rfl, .inl rfl⟩
  obtain ⟨a, ha, hb2⟩ := this
  apply finish_inv
  · rw [ha]
    refine ⟨c1, c2, c3, ?_, ?_, c6, c7, ?_, ?_⟩
    · simp
    · simp [hwu, hbu]
    · simp [hbu]
    · rcases hb2 with rfl | rfl
      · exact c9
      · simp [nextFlashAddr, masked_inside, hcfg]
  · rw [ha]; exact hwu
  · rw [ha]; exact hbu

theorem bpiStep_inv (h : bpiStep s = .ok t) (he : bpiEnabled s = true) (hs : Inv s) : Inv t := by
  have w := within_bpiStep h
  refine hs.of_within w ?_ ?_ ?_ ?_ <;> intro hm <;> simp at hm
  rw [w.cfg]
  obtain ⟨hq, rfl⟩ | ⟨c, rest, hq, ⟨hw, rfl⟩ | ⟨hw, hb, rfl⟩ | ⟨hw, hb, hf, rfl⟩⟩ := bpiStep_cases h
  · exact hs.bpi
  · apply statusStep_inv hs.bpi hw
    simp [bpiEnabled, bpiWouldPush, hq, hw] at he; omega
  · apply burstStep_inv hs.bpi hb
    simp [bpiEnabled, bpiWouldPush, hq, hb] at he; omega
  · have hpush : cmdPushes c = true → s.bpi.rdq.length < s.cfg.bpiReadFifoDepth := by
      intro hp
      simp [bpiEnabled, bpiWouldPush, hq, hf, hp] at he; omega
    -- the command after assert and load
    have hcfg : (bpiLoad c (bpiAssert c s)).cfg = s.cfg := ((within_bpiAssert c s).trans (within_bpiLoad _ _)).cfg
    obtain ⟨b1,b2,b3,b4,b5,b6,b7,b8,b9⟩ := hs.bpi
    unfold bpiStartFault at hf
    split_ifs at hf with f1 f2 f3 f4 f5 f6
    have hload : (bpiLoad c (bpiAssert c s)).bpi = { s.bpi with
        cs := if cmdAssertCs c then true else s.bpi.cs
        csKnown := if cmdAssertCs c then true else s.bpi.csKnown
        addr := if cmdLoadAddr c then cmdP c else s.bpi.addr
        addrKnown := if cmdLoadAddr c then true else s.bpi.addrKnown
        primed := if cmdLoadAddr c then 0 else s.bpi.primed } := by
      unfold bpiLoad bpiAssert; split_ifs <;> rfl
    set u := bpiLoad c (bpiAssert c s) with hu
    have hu1 : BpiInv s.cfg u.bpi := by
      rw [hload]
      refine ⟨b1, b2, b3, ?_, ?_, b6, ?_, ?_, ?_⟩ <;> simp_all
      · split_ifs <;> omega
      · split_ifs <;> simp_all
    have hl1 : u.bpi.rdq = s.bpi.rdq := by rw [hload]
    have hwu : u.bpi.waiting = false := by rw [hload]; exact hw
    have hbu : u.bpi.burstLeft = 0 := by rw [hload]; exact hb
    clear_value u
    simp [cmdAdmissible] at f1
    unfold bpiAccess
    split_ifs with g1 g2 g3 g4 g5
    · rw [← hcfg]
      apply burstStep_inv (s := { u with bpi := { u.bpi with burstLeft := (cmdData c).toNat + 1 } })
      · obtain ⟨c1,c2,c3,c4,c5,c6,c7,c8,c9⟩ := hu1
        simp only [hcfg]
        have hld : cmdLoadAddr c = false := by
          by_contra hh; simp at hh; simp [hh, g1] at f1
        refine ⟨c1, c2, ?_, c4, ?_, ?_, c7, ?_, c9⟩
        · have := (cmdData c).isLt; simp; omega
        · rw [hload]; simp [hq]
        · simp [hwu]
        · intro _
          simp [g1] at f6 f1
          simp [f1] at f4
          simp [addrReady, csReady, hld] at f4
          rw [hload]; simp [hld]; refine ⟨?_, ?_, ?_⟩
          · exact f6
          · exact f4.1
          · exact f4.2
      · simp
      · simp only [hl1, hcfg]; apply hpush; simp [cmdPushes]; simp [g1] at f1; simp [f1]
    · have hroom : s.bpi.rdq.length < s.cfg.bpiReadFifoDepth := hpush (by simp [cmdPushes, g2])
      exact readInc_inv c hu1 hcfg (by rw [hl1]; exact hroom) hwu hbu
    · have hroom : s.bpi.rdq.length < s.cfg.bpiReadFifoDepth := hpush (by simp [cmdPushes, g2])
      exact readWord_inv c hu1 (by rw [hl1]; exact hroom) hwu hbu
    · exact writeWord_inv c hu1 hcfg hwu hbu
    · rw [← hcfg]
      apply statusStep_inv (s := { u with bpi := { u.bpi with waiting := true } })
      · obtain ⟨c1,c2,c3,c4,c5,c6,c7,c8,c9⟩ := hu1
        simp only [hcfg]
        refine ⟨c1, c2, c3, c4, ?_, ?_, ?_, c8, c9⟩
        · intro _; show u.bpi.cmdq ≠ []; have : u.bpi.cmdq = s.bpi.cmdq := by rw [hload]
          rw [this, hq]; exact List.cons_ne_nil _ _
        · intro _; exact hbu
        · intro _
          have hcs : csReady c s.bpi = true := by
            by_contra hh; apply f5; rw [g5]; simp only [Bool.not_eq_true] at hh; rw [hh]; rfl
          have e : u.bpi.csKnown = if cmdAssertCs c then true else s.bpi.csKnown := by rw [hload]
          show u.bpi.csKnown = true
          rw [e]; unfold csReady at hcs
          cases hA : cmdAssertCs c
          · rw [hA] at hcs; simpa using hcs
          · rfl
      · rfl
      · simp only [hl1, hcfg]; apply hpush; simp [cmdPushes, g5]
    · exact finish_inv c hu1 hwu hbu
end Sys2Proof.Machine
end

