-- ==== Sys2Proof/Laws/Words.lean ====
section
/-! SUPPORT. One word of a host program: what a register access does, from its effect on the units alone. -/

namespace Sys2Proof.Machine

variable {i : Instr} {s u : State} {v : RegVal} {e : Fault}

/-- The bank check comes before everything else an access does (R160). -/
theorem bankChecked {b : Nat} (hb : i.bank? = some b) : BankChecked b i s := by
  intro hn ha
  have hi : i.isHost = false := by cases i <;> simp [Instr.bank?] at hb <;> rfl
  have hf : accessFault s.cfg i = some .i2cBank := by simp [accessFault, hb, hn]
  cases hw : i.isWrite
  · have hr : i.isRead = true := by simpa [Instr.isWrite, hi] using hw
    rw [exec_read s hr]
    simp [hostRead, ha, issueRead, hf]
  · rw [exec_write s hw]
    simp [hostWrite, ha, issueWrite, hf]

/-- A write performed at once, when there is room for it. -/
theorem exec_direct (hd : Direct i s) (hw : i.isWrite = true) (hr : hasRoom i s = true) (hf : writeEffect i s = .ok u) :
    exec i s = .next (afterWrite i u) := by
  rw [exec_write s hw, hostWrite_direct hd (by rwa [accepts_inOrder hd.2]) hf]
  rfl

/-- A write performed at once faults when its effect does. -/
theorem exec_direct_fault (hd : Direct i s) (hw : i.isWrite = true) (hr : hasRoom i s = true)
    (hf : writeEffect i s = .error e) : exec i s = .fault e := by
  rw [exec_write s hw, hostWrite_direct_fault hd (by rwa [accepts_inOrder hd.2]) hf]

/-- In `InOrder` every read is accepted. -/
theorem accepts_read (hd : Direct i s) (hi : i.isRead = true) : accepts i s = true := by
  rw [accepts_inOrder hd.2]
  cases i <;> first | rfl | cases hi

/-- A read that gives a value. -/
theorem exec_read_direct (hd : Direct i s) (hi : i.isRead = true) (hf : readEffect i s = .ok (v, u)) :
    exec i s = .next (afterReadOf i v u) := by
  rw [exec_read s hi, hostRead_value (accepts_read hd hi) hd.1 hf, State.passFence_inOrder]
  · rfl
  · simp only [State.record_cfg, State.setLast_cfg, (readEffect_within hf).cfg, hd.2]

/-- A read faults when its effect does. -/
theorem exec_read_fault (hd : Direct i s) (hi : i.isRead = true) (hf : readEffect i s = .error e) :
    exec i s = .fault e := by
  rw [exec_read s hi, hostRead_fault (accepts_read hd hi) hd.1 hf]

/-- A transfer start, from the effect it has on the unit. -/
theorem startsTransfer {r : Nat} {f : I2cUnit → I2cUnit} (hw : i.isWrite = true) (hr : hasRoom i s = true)
    (h : writeEffect i s =
      match transferFault r s.i2c with | some e => .error e | none => .ok { s with i2c := f s.i2c }) :
    StartsTransfer r i f s where
  unwritten hd h1 := exec_direct_fault hd hw hr (by simp [h, transferFault, h1])
  disabled hd h1 h2 := exec_direct_fault hd hw hr (by simp [h, transferFault, h1, h2])
  in_progress hd h1 h2 h3 := exec_direct_fault hd hw hr (by simp [h, transferFault, h1, h2, h3])
  starts hd h1 h2 h3 := exec_direct hd hw hr (by simp [h, transferFault, h1, h2, h3])
  bank _ hb := bankChecked hb

end Sys2Proof.Machine
end

