-- ==== Sys2Proof/Laws/Bpi.lean ====
section
/-! SUPPORT. The values of the BPI and CPLD reads, the checks of a command word bit by bit, and what each part of the engine's
step does. -/

namespace Sys2Proof.Machine

/-! ## Read values -/

theorem bitAt_toNat (b : Bool) {k : Nat} (hk : k < 32) : (bitAt b k).toNat = b.toNat * 2 ^ k := by
  unfold bitAt
  rw [BitVec.toNat_ofNat]
  apply Nat.mod_eq_of_lt
  calc b.toNat * 2 ^ k ≤ 1 * 2 ^ k := Nat.mul_le_mul_right _ (Bool.toNat_le b)
    _ < 2 ^ 32 := by rw [one_mul]; exact Nat.pow_lt_pow_right (by omega) hk

theorem bitAt_getLsbD (b : Bool) {k : Nat} (j : Nat) (hk : k < 32) :
    (bitAt b k).getLsbD j = (decide (j = k) && b) := by
  unfold bitAt
  cases b
  · simp
  · rw [BitVec.getLsbD_ofNat]
    simp only [Bool.toNat_true, one_mul, Nat.testBit_two_pow, Bool.and_true]
    by_cases h : j = k
    · subst h; simp [hk]
    · simp [h, Ne.symm h]

/-- The bits of a data register value (R40). -/
theorem bpiDataValue_getLsbD (w : Half) (e f r : Bool) (j : Nat) :
    (bpiDataValue w e f r).getLsbD j =
      ((decide (j < 32) && w.getLsbD j) || (decide (j = 16) && e) || (decide (j = 17) && f) || (decide (j = 18) && r)) := by
  simp [bpiDataValue, bitAt_getLsbD]

/-! ## The bits of a command word -/

/-- The accessor names are the bits of R39. -/
theorem cmd_bits (c : RegVal) :
    c.getLsbD 24 = cmdAssertCs c ∧ c.getLsbD 25 = cmdDeassertCs c ∧ c.getLsbD 26 = cmdLoadAddr c ∧
      c.getLsbD 27 = cmdWaitReady c ∧ c.getLsbD 28 = cmdBurst c ∧ c.getLsbD 29 = cmdRead c ∧
      c.getLsbD 30 = cmdWrite c ∧ c.getLsbD 31 = cmdInc c := by
  cases c
  exact ⟨rfl, rfl, rfl, rfl, rfl, rfl, rfl, rfl⟩

theorem cmdP_toNat (c : RegVal) : (cmdP c).toNat = c.toNat % 2 ^ 24 := by simp [cmdP]

theorem cmdP_eq_zero (c : RegVal) : cmdP c = 0 ↔ c.toNat % 2 ^ 24 = 0 := by
  rw [← cmdP_toNat]
  constructor
  · intro h; rw [h]; rfl
  · intro h; apply BitVec.eq_of_toNat_eq; rw [h]; rfl

theorem cmdData_toNat (c : RegVal) : (cmdData c).toNat = c.toNat % 2 ^ 16 := by simp [cmdData]

/-- The nine checks of R222 pass exactly on the words without a contradiction. -/
theorem cmdAdmissible_iff (c : RegVal) : cmdAdmissible c = true ↔ ¬Contradictory c := by
  unfold cmdAdmissible Contradictory
  simp only [cmdP_eq_zero, cmdP_toNat, cmdAssertCs, cmdDeassertCs, cmdLoadAddr, cmdWaitReady, cmdBurst, cmdRead, cmdWrite,
    cmdInc, not_or, Bool.and_eq_true, and_assoc]
  refine and_congr ?_ (and_congr ?_ (and_congr ?_ (and_congr ?_ (and_congr ?_ ?_))))
  · cases c.getLsbD 24 <;> cases c.getLsbD 25 <;> decide
  · cases c.getLsbD 29 <;> cases c.getLsbD 30 <;> decide
  · cases c.getLsbD 28 <;> cases c.getLsbD 29 <;> cases c.getLsbD 31 <;> decide
  · cases c.getLsbD 31 <;> cases c.getLsbD 29 <;> cases c.getLsbD 30 <;> decide
  · cases c.getLsbD 27 <;> cases c.getLsbD 29 <;> cases c.getLsbD 30 <;> cases c.getLsbD 28 <;> decide
  · have key : ∀ (l w b i : Bool) (p : Nat),
        ((decide (l.toNat + w.toNat + b.toNat ≤ 1)) = true ∧ (!l || !i) = true ∧ (l || w || b || decide (p = 0)) = true ∧
          (!(w || b) || decide (p < 65536)) = true) ↔
        (¬(l = true ∧ w = true) ∧ ¬(l = true ∧ b = true) ∧ ¬(w = true ∧ b = true) ∧ ¬(l = true ∧ i = true) ∧
          ¬(¬l = true ∧ ¬w = true ∧ ¬b = true ∧ p ≠ 0) ∧ ¬((w = true ∨ b = true) ∧ 65536 ≤ p)) := by
      intro l w b i p
      cases l <;> cases w <;> cases b <;> cases i <;> simp
    exact key _ _ _ _ _

/-- Which bits of an admissible word go together (R222). -/
theorem admissible_bits {c : RegVal} (hc : ¬Contradictory c) :
    (cmdRead c = true → cmdWrite c = false) ∧
    (cmdBurst c = true → cmdRead c = true ∧ cmdInc c = true ∧ cmdLoadAddr c = false ∧ cmdWrite c = false) ∧
    (cmdWaitReady c = true → cmdBurst c = false ∧ cmdRead c = false ∧ cmdWrite c = false) ∧
    (cmdInc c = true → cmdLoadAddr c = false) ∧
    (cmdWrite c = true → cmdLoadAddr c = false ∧ cmdBurst c = false) := by
  obtain ⟨-, -, b26, b27, b28, b29, b30, b31⟩ := cmd_bits c
  unfold Contradictory at hc
  rw [b26, b27, b28, b29, b30, b31] at hc
  simp only [not_or] at hc
  obtain ⟨-, c2, c3, c4, c5, ⟨c61, c62, c63⟩, c7, -, -⟩ := hc
  revert c2 c3 c4 c5 c61 c62 c63 c7
  cases cmdLoadAddr c <;> cases cmdWaitReady c <;> cases cmdBurst c <;> cases cmdRead c <;> cases cmdWrite c <;>
    cases cmdInc c <;> simp

/-! ## Starting a command -/

/-- The three refusals of R222, R224 and R229, as the start of a command tests them. -/
theorem refusal_tests (c : RegVal) (s : State) :
    (cmdAdmissible c = true ↔ ¬Contradictory c) ∧
    ((cmdLoadAddr c && decide (cmdP c &&& ~~~s.cfg.bpiAddressMask ≠ 0)) = true ↔ OutsideBank s.cfg c) ∧
    ((cmdWrite c && decide (2 ^ s.cfg.bpiWordBits ≤ (cmdData c).toNat)) = true ↔ TooWide s.cfg c) := by
  refine ⟨cmdAdmissible_iff c, ?_, ?_⟩ <;>
    simp only [OutsideBank, TooWide, cmdLoadAddr, cmdWrite, cmdData_toNat, Bool.and_eq_true, decide_eq_true_eq]

/-- The fault of a word that is not refused (R225 to R228). -/
theorem bpiStartFault_of_not_refused {c : RegVal} {s : State} (h : ¬Refused s.cfg c) :
    bpiStartFault c s =
      (if (cmdRead c || cmdWrite c) && !(addrReady c s.bpi && csReady c s.bpi) then some (.unwritten (accessRule c))
        else if cmdWaitReady c && !csReady c s.bpi then some (.unwritten (accessRule c))
        else if cmdBurst c && decide (s.bpi.primed ≠ 3) then some .bpiUnprimed
        else none) := by
  obtain ⟨h1, h2, h3⟩ := refusal_tests c s
  simp only [Refused, not_or] at h
  unfold bpiStartFault
  rw [if_neg (by simpa using h1.2 h.1), if_neg (by rw [h2]; exact h.2.1), if_neg (by rw [h3]; exact h.2.2)]

/-- The other faults of a start are not `F_BPI_CMD`. -/
theorem startFault_rest (a b c : Bool) (k r : Nat) :
    (if a then some (Fault.unwritten k) else if b then some (.unwritten k) else if c then some .bpiUnprimed else none) ≠
      some (.bpiCmd r) := by
  cases a <;> cases b <;> cases c <;> simp

/-- Which refusal a start makes, and that nothing else gives its fault (R222, R224, R229). -/
theorem bpiStartFault_eq_bpiCmd (c : RegVal) (s : State) (r : Nat) :
    bpiStartFault c s = some (.bpiCmd r) ↔
      (r = 222 ∧ Contradictory c) ∨ (r = 224 ∧ ¬Contradictory c ∧ OutsideBank s.cfg c) ∨
      (r = 229 ∧ ¬Contradictory c ∧ ¬OutsideBank s.cfg c ∧ TooWide s.cfg c) := by
  obtain ⟨h1, h2, h3⟩ := refusal_tests c s
  by_cases a1 : Contradictory c
  · have : bpiStartFault c s = some (.bpiCmd 222) := by
      unfold bpiStartFault
      rw [if_pos (by simp only [Bool.not_eq_true']; rw [← Bool.not_eq_true, h1]; exact not_not.2 a1)]
    simp [this, a1, eq_comm]
  · by_cases a2 : OutsideBank s.cfg c
    · have : bpiStartFault c s = some (.bpiCmd 224) := by
        unfold bpiStartFault
        rw [if_neg (by simpa using h1.2 a1), if_pos (h2.2 a2)]
      simp [this, a1, a2, eq_comm]
    · by_cases a3 : TooWide s.cfg c
      · have : bpiStartFault c s = some (.bpiCmd 229) := by
          unfold bpiStartFault
          rw [if_neg (by simpa using h1.2 a1), if_neg (by rw [h2]; exact a2), if_pos (h3.2 a3)]
        simp [this, a1, a2, a3, eq_comm]
      · rw [bpiStartFault_of_not_refused (by simp [Refused, a1, a2, a3])]
        exact ⟨fun h => absurd h (startFault_rest _ _ _ _ r), fun h => by simp [a1, a2, a3] at h⟩

/-- Between two commands a step starts the next one. -/
theorem bpiStep_start {c : RegVal} {rest : List RegVal} {s : State} (h : EngineAt c rest s.bpi) :
    bpiStep s = bpiStart c s := by
  simp [bpiStep, h.head, h.not_waiting, h.no_burst]

theorem bpiStart_ok {c : RegVal} {s : State} (h : bpiStartFault c s = none) :
    bpiStart c s = .ok (bpiAccess c (bpiLoad c (bpiAssert c s))) := by
  unfold bpiStart; rw [h]

theorem bpiStart_error {c : RegVal} {s : State} {e : Fault} (h : bpiStartFault c s = some e) : bpiStart c s = .error e := by
  unfold bpiStart; rw [h]

/-- `ASSERT_CS` and `LOAD_ADDR` together (R223, R224). -/
theorem bpiLoad_assert (c : RegVal) (s : State) :
    bpiLoad c (bpiAssert c s) = { s with bpi := { s.bpi with
      cs := selectedAt c s.bpi
      csKnown := cmdAssertCs c || s.bpi.csKnown
      addr := addressAt c s.bpi
      addrKnown := cmdLoadAddr c || s.bpi.addrKnown
      primed := if cmdLoadAddr c then 0 else s.bpi.primed } } := by
  unfold bpiLoad bpiAssert selectedAt addressAt cmdLoadAddr cmdAssertCs
  cases c.getLsbD 24 <;> cases c.getLsbD 26 <;> rfl

/-! ## Words of the flash -/

theorem flashWordOf_eq (c : Config) (v : RegVal) : flashWordOf c (v.setWidth 16) = flashAnswer c v := by
  simp [flashWordOf, flashAnswer]

/-- A flash read is one answer. -/
theorem flashRead_eq (u : State) :
    flashRead u =
      (flashAnswer u.cfg (u.nextAnswer (flashQuery u.bpi.cs u.cpld.bankEff u.bpi.addr)),
        u.answered (flashQuery u.bpi.cs u.cpld.bankEff u.bpi.addr)) := by
  unfold flashRead flashQuery
  cases u.bpi.cs <;> simp [flashWordOf_eq]

/-- A status read is one answer; a deselected one keeps all its bits. -/
theorem flashStatus_eq (u : State) :
    flashStatus u =
      (if u.bpi.cs then flashAnswer u.cfg (u.nextAnswer (.flashStatus u.cpld.bankEff))
        else (u.nextAnswer .flashUndriven).setWidth 16,
        u.answered (if u.bpi.cs then .flashStatus u.cpld.bankEff else .flashUndriven)) := by
  unfold flashStatus
  cases u.bpi.cs <;> simp [flashWordOf_eq]

end Sys2Proof.Machine
end

