-- ==== Sys2Proof/Laws/Domains.lean ====
section
/-! SUPPORT. The host agents of the other lock domains (48_host.md R411): swapping one of them in keeps the invariant, and what its
step can do. -/

namespace Sys2Proof.Machine

variable {s t : State}

/-- The machine as another host agent has it keeps the invariant. -/
theorem Inv.swap (h : Inv s) (d : Nat) : Inv (s.swap d) := by
  by_cases hd : s.hasDomain d = true
  · obtain ⟨o, us, ho, hu⟩ := (s.hasDomain_iff).1 hd
    obtain ⟨h1, h2⟩ := h.others d o us ho hu
    have hl := (List.getElem?_eq_some_iff.1 ho).1
    rw [s.swap_eq ho hu]
    refine ⟨⟨h.i2c.1, h.i2c.2, h.i2c.3⟩, ⟨h.bpi.1, h.bpi.2, h.bpi.3, h.bpi.4, h.bpi.5, h.bpi.6, h.bpi.7, h.bpi.8, h.bpi.9⟩,
      h.latched_valid, h.presc_fits, ⟨h2.1, h2.2, h2.3, h2.4⟩, h1, by simpa using h.domains, ?_⟩
    intro e p vs hp hv
    simp only [List.getElem?_set] at hp hv
    by_cases he : d = e
    · subst he
      have hc := (List.getElem?_eq_some_iff.1 hu).1
      simp only [if_true, hl, hc] at hp hv
      cases hp; cases hv
      exact ⟨h.host, ⟨h.path.1, h.path.2, h.path.3, h.path.4⟩⟩
    · simp only [he, if_false] at hp hv
      obtain ⟨p1, p2⟩ := h.others e p vs hp hv
      exact ⟨p1, ⟨p2.1, p2.2, p2.3, p2.4⟩⟩
  · have : s.swap d = s := by
      unfold State.swap
      split
      · rename_i o us ho hu
        exact absurd ((s.hasDomain_iff).2 ⟨o, us, ho, hu⟩) hd
      · rfl
    rw [this]; exact h

/-- What a step of another host agent is: its step in the swapped machine, swapped back. -/
theorem foreign_step {d : Nat} (h : agentStep (.foreign d) s = .next t) : ∃ u, hostStep (s.swap d) = .next u ∧ t = u.swap d := by
  simp only [agentStep] at h
  cases hs : hostStep (s.swap d) <;> rw [hs] at h <;> cases h
  exact ⟨_, rfl, rfl⟩

/-- What the performing of a posted write of another host agent is. -/
theorem foreignBus_step {d k : Nat} (h : agentStep (.foreignBus d k) s = .next t) :
    ∃ u, busStep k (s.swap d) = .ok u ∧ t = u.swap d := by
  simp only [agentStep] at h
  cases hs : busStep k (s.swap d) <;> rw [hs] at h <;> cases h
  exact ⟨_, rfl, rfl⟩

/-- Another host agent's step changes no other host agent, no parameter and no access in flight of the first one, when in the swapped
machine it keeps the parameters and the other hosts. -/
theorem swap_back_frame {d : Nat} {o : OtherHost} {us : List UnitId} (ho : s.others[d]? = some o)
    (hu : s.cfg.otherDomains[d]? = some us) (hc : t.cfg = (s.swap d).cfg) (hs : t.others = (s.swap d).others) :
    (t.swap d).cfg = s.cfg ∧ (t.swap d).host = s.host ∧ (t.swap d).path = s.path ∧
      (t.swap d).others.length = s.others.length ∧ ∀ e, e ≠ d → (t.swap d).others[e]? = s.others[e]? := by
  rw [s.swap_back ho hu hc hs]
  refine ⟨rfl, rfl, rfl, by simp, fun e he => ?_⟩
  simp [List.getElem?_set_ne (Ne.symm he)]

/-! ## A host step changes only units of its own lock domain (R411, R438) -/

/-- From `s` to `t` no parameter, no other host agent and no turn changes, and no unit outside the lock domain of the host agent but
`S.dummy_done`, which is host-side (R49). -/
structure OwnUnits (s t : State) : Prop where
  cfg : t.cfg = s.cfg
  others : t.others = s.others
  sched : t.sched = s.sched
  i2c : .i2c ∉ s.cfg.ownUnits → t.i2c = s.i2c
  bpi : .bpi ∉ s.cfg.ownUnits → t.bpi = s.bpi
  cpld : .bpi ∉ s.cfg.ownUnits → t.cpld = s.cpld
  spi2 : .spi2 ∉ s.cfg.ownUnits → t.spi2 = { s.spi2 with dummyDone := t.spi2.dummyDone }
  spid : .spid ∉ s.cfg.ownUnits → t.spid = s.spid
  jtag : .jtag ∉ s.cfg.ownUnits → t.jtag = s.jtag
  tap : .jtag ∉ s.cfg.ownUnits → t.tap = s.tap

theorem OwnUnits.refl (s : State) : OwnUnits s s := by constructor <;> simp

theorem OwnUnits.trans {u : State} (h : OwnUnits s t) (g : OwnUnits t u) : OwnUnits s u where
  cfg := g.cfg.trans h.cfg
  others := g.others.trans h.others
  sched := g.sched.trans h.sched
  i2c n := (g.i2c (by rwa [h.cfg])).trans (h.i2c n)
  bpi n := (g.bpi (by rwa [h.cfg])).trans (h.bpi n)
  cpld n := (g.cpld (by rwa [h.cfg])).trans (h.cpld n)
  spi2 n := by rw [g.spi2 (by rwa [h.cfg]), h.spi2 n]
  spid n := (g.spid (by rwa [h.cfg])).trans (h.spid n)
  jtag n := (g.jtag (by rwa [h.cfg])).trans (h.jtag n)
  tap n := (g.tap (by rwa [h.cfg])).trans (h.tap n)

/-- A point of a procedure changes no unit. -/
theorem HostSide.own (h : HostSide s t) : OwnUnits s t :=
  ⟨h.cfg, h.others, h.sched, fun _ => h.i2c, fun _ => h.bpi, fun _ => h.cpld, fun _ => h.spi2, fun _ => h.spid,
    fun _ => h.jtag, fun _ => h.tap⟩

/-- An effect on a unit of the lock domain. -/
theorem Within.own {us : List UnitId} (h : Within us s t) (hu : ∀ u ∈ us, u ∈ s.cfg.ownUnits) : OwnUnits s t := by
  have k : ∀ u, u ∉ s.cfg.ownUnits → u ∉ us := fun u n m => n (hu u m)
  exact ⟨h.cfg, h.others, h.sched, fun n => h.i2c (k _ n), fun n => h.bpi (k _ n), fun n => h.cpld (k _ n),
    fun n => by rw [h.spi2 (k _ n)], fun n => h.spid (k _ n), fun n => h.jtag (k _ n), fun n => h.tap (k _ n)⟩

/-- A change of the host agent, its accesses in flight, the environment and the history is no change of a unit. -/
theorem OwnUnits.update (h : OwnUnits s t) (ho : HostAgent) (p : RegPath) (e : Env) (hi : List Event) :
    OwnUnits s { t with host := ho, path := p, env := e, history := hi } :=
  ⟨h.cfg, h.others, h.sched, h.i2c, h.bpi, h.cpld, h.spi2, h.spid, h.jtag, h.tap⟩

theorem passFence_own (s : State) : OwnUnits s s.passFence := by constructor <;> simp

theorem issueWrite_own {i : Instr} (h : issueWrite i (writeEffect i) s = .ok t) : OwnUnits s t := by
  obtain ⟨ha, ⟨-, u, hu, rfl⟩ | ⟨-, rfl⟩⟩ := issueWrite_cases h
  · have := (writeEffect_within hu).own (by simpa using (accessFault_none ha).2.1)
    exact this.update _ _ _ _
  · exact (OwnUnits.refl s).update _ _ _ _

theorem issueRead_own {i : Instr} (h : issueRead i (readEffect i) s = .ok t) : OwnUnits s t := by
  obtain ⟨ha, v, u, hu, rfl⟩ := issueRead_cases h
  have hm := (accessFault_none ha).2.1
  have hw : OwnUnits s u := (readEffect_within hu).own (by
    intro x hx; split_ifs at hx with h1 h2 <;> simp at hx <;> subst hx <;> first | (subst h1; exact hm) | (subst h2; exact hm))
  exact (hw.update _ _ _ _).trans (passFence_own _)

theorem issue_own {i : Instr} (h : issue i s = .ok t) : OwnUnits s t := by
  unfold issue at h
  split_ifs at h
  · exact issueWrite_own h
  · exact issueRead_own h
  · cases h; exact .refl s

theorem pollExpired_own (b : Bool) (s : State) : OwnUnits s (pollExpired b s).2 := by
  unfold pollExpired; split
  · exact (OwnUnits.refl s).update _ _ _ _
  · exact .refl s

theorem exec_own {i : Instr} (h : exec i s = .next t) : OwnUnits s t := by
  have adv : ∀ {u : State}, OwnUnits s u → OwnUnits s u.advance := fun h => h.update _ _ _ _
  cases hw : i.isWrite
  · cases hr : i.isRead
    · cases i <;> simp [Instr.isWrite, Instr.isRead, Instr.isHost, Instr.unit] at hw hr
      · simp only [exec, execHostPoll] at h
        split at h
        · cases h
        · rename_i r _
          split_ifs at h <;> cases h
          · exact adv (passFence_own s)
          · have p := (passFence_own s).trans (pollExpired_own (pollBounded r) s.passFence)
            unfold pollFailed; simp only; split
            · exact p.update _ _ _ _
            · exact p.update _ _ _ _
      · simp only [exec, execHostCheck] at h
        split at h
        · cases h
        · split_ifs at h <;> cases h
          · exact adv (passFence_own s)
          · exact (passFence_own s).update _ _ _ _
      · simp only [exec, execHostHalt] at h
        split at h <;> cases h
        exact (passFence_own s).update _ _ _ _
      · simp only [exec, execHostBarrier] at h
        split_ifs at h <;> cases h
        · exact adv ((passFence_own s).update _ _ _ _)
        · exact .refl s
      · simp only [exec, execHostB2b] at h
        cases h
        refine adv ?_
        unfold State.backToBack; split
        · exact (OwnUnits.refl s).update _ _ _ _
        · exact (OwnUnits.refl s).update _ _ _ _
    · rw [exec_read s hr] at h
      obtain ⟨-, rfl⟩ | ⟨-, u, hu, rfl⟩ := hostRead_cases h
      · exact .refl _
      · exact adv (issueRead_own hu)
  · rw [exec_write s hw] at h
    obtain ⟨-, rfl⟩ | ⟨-, u, hu, rfl⟩ := hostWrite_cases h
    · exact .refl _
    · exact adv (issueWrite_own hu)

theorem microStep_own {m : Micro} (h : microStep m s = .next t) : OwnUnits s t := by
  have hp : HostSide s s.pop := (HostSide.refl s).pop
  cases m <;> simp only [microStep, microOp, microRun] at h
  · split_ifs at h
    · cases h; exact hp.own
    · exact hp.own.trans (issue_own (toOutcome_next h))
    · cases h; exact .refl _
  · split_ifs at h
    · cases h; exact hp.own
    · exact hp.own.trans (runProc_hostSide (toOutcome_next h)).own
  · split_ifs at h <;> cases h
    · exact hp.own
    · exact ((hp.setStatus _).push _).own
  · cases h; exact ((hp.setStatus _).push _).own
  · cases h; exact (hp.setStatus _).own
  · cases h; split
    · exact hp.own
    · exact (hp.setStatus _).own
  · cases h; exact (hp.setBurst _ _).own
  · cases h; exact (hp.setDrv _).own

theorem driverStep_own (h : driverStep s = .next t) : OwnUnits s t := by
  unfold driverStep at h
  split at h
  · exact microStep_own h
  · split at h
    · cases h
      unfold callsEnd
      split <;> exact (OwnUnits.refl s).update _ _ _ _
    · unfold callStart at h
      split_ifs at h <;> cases h
      · exact (OwnUnits.refl s).update _ _ _ _
      · exact (((HostSide.refl s).setStatus _).push _).own
      · exact ((HostSide.refl s).setDrv _).own

/-- A host step changes only units of the host agent's lock domain. -/
theorem hostStep_own (h : hostStep s = .next t) : OwnUnits s t := by
  unfold hostStep at h
  split at h
  · unfold programStep at h
    split at h
    · cases h; exact .refl _
    · split at h
      · cases h
      · exact exec_own h
  · exact driverStep_own h

end Sys2Proof.Machine
end

