-- ==== Sys2Proof/Laws/Layout.lean ====
section
/-! SUPPORT. Value layouts (30_encoding.md R106): a layout of a whole register places every bit of the model value once, so the block
gets the model value back from the real one. -/

namespace Sys2Proof.Machine

variable {l : List LayoutPiece} {k j r : Nat}

/-- A bit that has a place stands inside one of the pieces. -/
theorem realBit_mem (h : realBit l k = some r) : ∃ p ∈ l, p.lo ≤ r ∧ r < p.lo + p.width := by
  induction l generalizing k with
  | nil => cases h
  | cons p rest ih =>
    simp only [realBit] at h
    split_ifs at h with hk
    · cases h
      exact ⟨p, by simp, by omega, by omega⟩
    · obtain ⟨q, hq, h1, h2⟩ := ih h
      exact ⟨q, by simp [hq], h1, h2⟩

/-- Every bit below the number of bits placed has a place. -/
theorem realBit_some (h : k < piecesWidth l) : ∃ r, realBit l k = some r := by
  induction l generalizing k with
  | nil => simp [piecesWidth] at h
  | cons p rest ih =>
    simp only [realBit]
    split_ifs with hk
    · exact ⟨_, rfl⟩
    · simp only [piecesWidth] at h
      exact ih (by omega)

/-- No two bits have the same place. -/
theorem realBit_inj (ha : piecesApart l = true) (hk : realBit l k = some r) (hj : realBit l j = some r) : k = j := by
  induction l generalizing k j with
  | nil => cases hk
  | cons p rest ih =>
    simp only [piecesApart, Bool.and_eq_true, List.all_eq_true] at ha
    have apart : ∀ i, realBit rest i = some r → ¬(p.lo ≤ r ∧ r < p.lo + p.width) := by
      intro i hi hr
      obtain ⟨q, hq, h1, h2⟩ := realBit_mem hi
      have := ha.1 q hq
      simp only [LayoutPiece.apart, Bool.or_eq_true, decide_eq_true_eq] at this
      omega
    simp only [realBit] at hk hj
    split_ifs at hk hj with a b b
    · simp only [Option.some.injEq] at hk hj; omega
    · simp only [Option.some.injEq] at hk; exact absurd ⟨by omega, by omega⟩ (apart _ hj)
    · simp only [Option.some.injEq] at hj; exact absurd ⟨by omega, by omega⟩ (apart _ hk)
    · have := ih ha.2 hk hj; omega

/-- What a copy holds at a bit: whether one of its pairs brings a set bit there. -/
theorem moveBits_bit (m : List (Nat × Nat)) (v : RegVal) (hr : r < 32) :
    (moveBits m v).getLsbD r = true ↔ ∃ k, (k, r) ∈ m ∧ v.getLsbD k = true := by
  have key : ∀ w : RegVal, (m.foldl (fun w x => if v.getLsbD x.1 then w ||| BitVec.ofNat 32 (2 ^ x.2) else w) w).getLsbD r = true ↔
      w.getLsbD r = true ∨ ∃ k, (k, r) ∈ m ∧ v.getLsbD k = true := by
    induction m with
    | nil => simp
    | cons x rest ih =>
      intro w
      have hb : (BitVec.ofNat 32 (2 ^ x.2)).getLsbD r = decide (x.2 = r) := by
        rw [BitVec.getLsbD_ofNat, Nat.testBit_two_pow]; simp [hr]
      rw [List.foldl_cons, ih]
      by_cases hv : v.getLsbD x.1 = true
      · simp only [hv, if_true, BitVec.getLsbD_or, Bool.or_eq_true, hb, decide_eq_true_eq, or_assoc, List.mem_cons]
        refine or_congr_right ⟨?_, ?_⟩
        · rintro (rfl | ⟨k, hk, h⟩)
          · exact ⟨x.1, .inl rfl, hv⟩
          · exact ⟨k, .inr hk, h⟩
        · rintro ⟨k, rfl | hk, h⟩
          · exact .inl rfl
          · exact .inr ⟨k, hk, h⟩
      · simp only [hv, if_false, Bool.false_eq_true, List.mem_cons]
        refine or_congr_right ⟨fun ⟨k, hk, h⟩ => ⟨k, .inr hk, h⟩, ?_⟩
        rintro ⟨k, rfl | hk, h⟩
        · exact absurd h hv
        · exact ⟨k, hk, h⟩
  simpa [moveBits] using key 0

/-- The pairs of a layout. -/
theorem mem_bitPairs : (k, r) ∈ bitPairs l ↔ k < 32 ∧ realBit l k = some r := by
  simp [bitPairs]

/-- What the real value holds at a bit. -/
theorem toReal_bit (v : RegVal) (hr : r < 32) :
    (toReal l v).getLsbD r = true ↔ ∃ k < 32, realBit l k = some r ∧ v.getLsbD k = true := by
  simp only [toReal, moveBits_bit _ _ hr, mem_bitPairs, and_assoc]

/-- What the model value holds at a bit. -/
theorem toModel_bit (w : RegVal) (hk : k < 32) :
    (toModel l w).getLsbD k = true ↔ ∃ r, realBit l k = some r ∧ w.getLsbD r = true := by
  rw [toModel, moveBits_bit _ _ hk]
  simp [mem_bitPairs, hk]

/-- The block gets the model value back from the real one. -/
theorem toModel_toReal (h : layoutOk l = true) (v : RegVal) : toModel l (toReal l v) = v := by
  simp only [layoutOk, Bool.and_eq_true, decide_eq_true_eq, List.all_eq_true] at h
  obtain ⟨⟨hw, hi⟩, ha⟩ := h
  apply BitVec.eq_of_getLsbD_eq
  intro k hk
  rw [Bool.eq_iff_iff, toModel_bit _ hk]
  obtain ⟨r, hr⟩ := realBit_some (l := l) (k := k) (by omega)
  obtain ⟨p, hp, -, h2⟩ := realBit_mem hr
  have hr32 : r < 32 := by have := hi p hp; omega
  constructor
  · rintro ⟨x, hx, hb⟩
    rw [hr] at hx; cases hx
    obtain ⟨m, -, hm, hv⟩ := (toReal_bit v hr32).1 hb
    rw [realBit_inj ha hr hm]; exact hv
  · intro hv
    exact ⟨r, hr, (toReal_bit v hr32).2 ⟨k, hk, hr, hv⟩⟩

end Sys2Proof.Machine
end

