-- ==== Sys2Proof/Laws/PerInstr.lean ====
section
/-! SUPPORT. The header of every instruction's word: its fields are those of its opcode-table row (30_encoding.md R90 to R97). -/

namespace Sys2Proof.Laws

open Sys2Proof

theorem mce_toNat {u o a v : Nat} (hu : u < 16) (ho : o < 16) (ha : a < 256) (hv : v < 4294967296) :
    (mce u o a v).toNat = u * 2 ^ 60 + o * 2 ^ 56 + a * 2 ^ 48 + v := by
  simp only [mce, BitVec.toNat_ofNat]
  omega

/-- The word of an instruction has its unit, operation, operands and no reserved bit. -/
def Header.Statement (i : Instr) : Prop :=
  i.WellFormed = true →
    mceUnit (encode i) = i.unit.code ∧ mceOp (encode i) = i.op ∧ mceAux (encode i) = i.aux ∧
      mceRsv (encode i) = 0 ∧ mceValue (encode i) = i.value

/-- The fields of a word whose parts fit. -/
theorem header_of_fits {i : Instr} (ha : i.WellFormed = true → i.aux < 256)
    (hv : i.WellFormed = true → i.value < 4294967296) : Header.Statement i := by
  intro h
  have hu : i.unit.code < 16 := by cases i.unit <;> decide
  have ho : i.op < 16 := by cases i <;> simp [Instr.op]
  have hw : (encode i).toNat = _ := mce_toNat hu ho (ha h) (hv h)
  simp only [mceUnit, mceOp, mceAux, mceRsv, mceValue, field, hw]
  have := ha h
  have := hv h
  omega

theorem Header.i2cWpreLo (b : Nat) (v : Byte) : Header.Statement (.i2cWpreLo b v) := by
  refine header_of_fits (fun h => ?_) (fun _ => ?_)
  · simp [Instr.WellFormed] at h; simp only [Instr.aux, Instr.bank?, Option.getD_some]; omega
  · have := v.isLt; simp only [Instr.value]; omega

theorem Header.i2cWpreHi (b : Nat) (v : Byte) : Header.Statement (.i2cWpreHi b v) := by
  refine header_of_fits (fun h => ?_) (fun _ => ?_)
  · simp [Instr.WellFormed] at h; simp only [Instr.aux, Instr.bank?, Option.getD_some]; omega
  · have := v.isLt; simp only [Instr.value]; omega

theorem Header.i2cRpreLo (b : Nat) : Header.Statement (.i2cRpreLo b) := by
  refine header_of_fits (fun h => ?_) (fun _ => ?_)
  · simp [Instr.WellFormed] at h; simp only [Instr.aux, Instr.bank?, Option.getD_some]; omega
  · simp [Instr.value]

theorem Header.i2cRpreHi (b : Nat) : Header.Statement (.i2cRpreHi b) := by
  refine header_of_fits (fun h => ?_) (fun _ => ?_)
  · simp [Instr.WellFormed] at h; simp only [Instr.aux, Instr.bank?, Option.getD_some]; omega
  · simp [Instr.value]

theorem Header.i2cWctrl (b : Nat) (en : Bool) : Header.Statement (.i2cWctrl b en) := by
  refine header_of_fits (fun h => ?_) (fun _ => ?_)
  · simp [Instr.WellFormed] at h; simp only [Instr.aux, Instr.bank?, Option.getD_some]; omega
  · cases en <;> simp [Instr.value]

theorem Header.i2cRctrl (b : Nat) : Header.Statement (.i2cRctrl b) := by
  refine header_of_fits (fun h => ?_) (fun _ => ?_)
  · simp [Instr.WellFormed] at h; simp only [Instr.aux, Instr.bank?, Option.getD_some]; omega
  · simp [Instr.value]

theorem Header.i2cWrite (b : Nat) (d : Byte) (sta sto : Bool) : Header.Statement (.i2cWrite b d sta sto) := by
  refine header_of_fits (fun h => ?_) (fun _ => ?_)
  · simp [Instr.WellFormed] at h; simp only [Instr.aux, Instr.bank?, Option.getD_some]; omega
  · have := d.isLt; cases sta <;> cases sto <;> simp [Instr.value] <;> omega

theorem Header.i2cRead (b : Nat) (sta sto nack : Bool) : Header.Statement (.i2cRead b sta sto nack) := by
  refine header_of_fits (fun h => ?_) (fun _ => ?_)
  · simp [Instr.WellFormed] at h; simp only [Instr.aux, Instr.bank?, Option.getD_some]; omega
  · cases sta <;> cases sto <;> cases nack <;> simp [Instr.value]

theorem Header.i2cStop (b : Nat) : Header.Statement (.i2cStop b) := by
  refine header_of_fits (fun h => ?_) (fun _ => ?_)
  · simp [Instr.WellFormed] at h; simp only [Instr.aux, Instr.bank?, Option.getD_some]; omega
  · simp [Instr.value]

theorem Header.i2cRstat (b : Nat) : Header.Statement (.i2cRstat b) := by
  refine header_of_fits (fun h => ?_) (fun _ => ?_)
  · simp [Instr.WellFormed] at h; simp only [Instr.aux, Instr.bank?, Option.getD_some]; omega
  · simp [Instr.value]

theorem Header.i2cRdata (b : Nat) : Header.Statement (.i2cRdata b) := by
  refine header_of_fits (fun h => ?_) (fun _ => ?_)
  · simp [Instr.WellFormed] at h; simp only [Instr.aux, Instr.bank?, Option.getD_some]; omega
  · simp [Instr.value]

theorem Header.bpiCmd (cmd : RegVal) : Header.Statement (.bpiCmd cmd) := by
  refine header_of_fits (fun _ => ?_) (fun _ => ?_)
  · simp [Instr.aux, Instr.bank?]
  · exact cmd.isLt

theorem Header.bpiRdata : Header.Statement .bpiRdata := by
  refine header_of_fits (fun _ => ?_) (fun _ => ?_)
  · decide
  · decide

theorem Header.bpiWbank (k : Byte) : Header.Statement (.bpiWbank k) := by
  refine header_of_fits (fun _ => ?_) (fun _ => ?_)
  · simp [Instr.aux, Instr.bank?]
  · have := k.isLt; simp only [Instr.value]; omega

theorem Header.bpiRbank : Header.Statement .bpiRbank := by
  refine header_of_fits (fun _ => ?_) (fun _ => ?_)
  · decide
  · decide

theorem Header.spi2Wctrl (ctl : Spi2Ctl) : Header.Statement (.spi2Wctrl ctl) := by
  refine header_of_fits (fun _ => ?_) (fun _ => ?_)
  · simp [Instr.aux, Instr.bank?]
  · obtain ⟨cs, rw, valid, n, quad, dev⟩ := ctl
    have := n.isLt
    have := dev.isLt
    have := cs.toNat_le
    have := rw.toNat_le
    have := valid.toNat_le
    have := quad.toNat_le
    simp only [Instr.value, spi2CtlValue]
    omega

theorem Header.spi2Rctrl : Header.Statement .spi2Rctrl := by
  refine header_of_fits (fun _ => ?_) (fun _ => ?_)
  · decide
  · decide

theorem Header.spi2Wdata (v : RegVal) : Header.Statement (.spi2Wdata v) := by
  refine header_of_fits (fun _ => ?_) (fun _ => ?_)
  · simp [Instr.aux, Instr.bank?]
  · exact v.isLt

theorem Header.spi2Rdata : Header.Statement .spi2Rdata := by
  refine header_of_fits (fun _ => ?_) (fun _ => ?_)
  · decide
  · decide

theorem Header.spidWctrl (c : SpidCtl) : Header.Statement (.spidWctrl c) := by
  refine header_of_fits (fun _ => ?_) (fun _ => ?_)
  · simp [Instr.aux, Instr.bank?]
  · obtain ⟨sck, cs, dout, oe⟩ := c
    have := dout.isLt
    have := oe.isLt
    have := sck.toNat_le
    have := cs.toNat_le
    simp only [Instr.value, spidCtlValue]
    omega

theorem Header.spidWfsel (v : BitVec 4) : Header.Statement (.spidWfsel v) := by
  refine header_of_fits (fun _ => ?_) (fun _ => ?_)
  · simp [Instr.aux, Instr.bank?]
  · have := v.isLt; simp only [Instr.value]; omega

theorem Header.spidRin : Header.Statement .spidRin := by
  refine header_of_fits (fun _ => ?_) (fun _ => ?_)
  · decide
  · decide

theorem Header.jtagShift (count : Nat) (tms tdi : Half) : Header.Statement (.jtagShift count tms tdi) := by
  refine header_of_fits (fun h => ?_) (fun _ => ?_)
  · simp [Instr.WellFormed] at h; simp only [Instr.aux]; omega
  · have := tms.isLt; have := tdi.isLt; simp only [Instr.value]; omega

theorem Header.jtagRtdo : Header.Statement .jtagRtdo := by
  refine header_of_fits (fun _ => ?_) (fun _ => ?_)
  · decide
  · decide

theorem Header.jtagWpresc (n : Half) : Header.Statement (.jtagWpresc n) := by
  refine header_of_fits (fun _ => ?_) (fun _ => ?_)
  · simp [Instr.aux, Instr.bank?]
  · have := n.isLt; simp only [Instr.value]; omega

theorem Header.jtagRstat : Header.Statement .jtagRstat := by
  refine header_of_fits (fun _ => ?_) (fun _ => ?_)
  · decide
  · decide

theorem Header.hostPoll (k : Nat) (p : Bool) : Header.Statement (.hostPoll k p) := by
  refine header_of_fits (fun h => ?_) (fun _ => ?_)
  · simp [Instr.WellFormed] at h; have := p.toNat_le; simp only [Instr.aux]; omega
  · simp [Instr.value]

theorem Header.hostCheck (k : Nat) (p : Bool) (st : Nat) : Header.Statement (.hostCheck k p st) := by
  refine header_of_fits (fun h => ?_) (fun h => ?_)
  · simp [Instr.WellFormed] at h; have := p.toNat_le; simp only [Instr.aux]; omega
  · simp [Instr.WellFormed] at h; simp only [Instr.value]; omega

theorem Header.hostHalt (st : Nat) : Header.Statement (.hostHalt st) := by
  refine header_of_fits (fun _ => ?_) (fun h => ?_)
  · simp [Instr.aux, Instr.bank?]
  · simp [Instr.WellFormed] at h; simp only [Instr.value]; omega

theorem Header.hostBarrier : Header.Statement .hostBarrier := by
  refine header_of_fits (fun _ => ?_) (fun _ => ?_)
  · decide
  · decide

theorem Header.hostB2b : Header.Statement .hostB2b := by
  refine header_of_fits (fun _ => ?_) (fun _ => ?_)
  · decide
  · decide

end Sys2Proof.Laws
end

