-- ==== Sys2Proof/Laws/Serial.lean ====
section
/-! SUPPORT. The loops of the serial units in closed form: the bytes of an SPI-v2 access and the clocks of a JTAG frame. -/

namespace Sys2Proof.Machine

/-! ## SPI-v2 -/

/-- A byte of a register value as a number. -/
theorem byteAt_eq (v : RegVal) (i : Nat) : byteAt v i = BitVec.ofNat 8 (v.toNat / 2 ^ (8*i)) := by
  unfold byteAt
  apply BitVec.eq_of_toNat_eq
  simp [BitVec.extractLsb', Nat.shiftRight_eq_div_pow]

/-- The bytes of a write access are recorded in order, and nothing else happens (R273). -/
theorem spi2WriteBytes_eq (ctl : Spi2Ctl) (txd : RegVal) (d : Bool) (n i : Nat) (s : State) :
    spi2WriteBytes ctl txd d n i s =
      { s with history := s.history ++
          (List.range n).map (fun k => .spiWrite ctl.dev ctl.quad ctl.cs (byteAt txd (i + k)) d) } := by
  induction n generalizing i s with
  | zero => simp [spi2WriteBytes]
  | succ n ih =>
    simp only [spi2WriteBytes]
    rw [ih]
    simp only [State.record, List.range_succ_eq_map, List.map_cons, List.map_map, Nat.add_zero, List.append_assoc,
      List.singleton_append, Function.comp_def]
    simp [Nat.add_assoc, Nat.add_comm 1]

/-- The bytes of a read access: one answer each, at its place in the entry, which starts below byte `i` (R274). -/
theorem spi2ReadBytes_spec (ctl : Spi2Ctl) (d : Bool) (q : Oracle)
    (n i : Nat) (e : RegVal) (s : State)
    (hq : q = if spi2Selects s.cfg ctl && !d then .spiByte ctl.dev ctl.quad else .spiUndriven)
    (hi : i + n ≤ 4) (he : e.toNat < 2 ^ (8 * i)) :
    ∃ a : Nat → RegVal,
      (spi2ReadBytes ctl d n i e s).2 = { s with
        env := ⟨s.env.answers.drop n, s.env.drawn + n⟩
        history := s.history ++ (List.range n).map (fun k => .answer q (a (i + k))) } ∧
      (∀ k < n, k < s.env.answers.length → s.env.answers[k]? = some (a (i + k))) ∧
      ∀ j < 4, (spi2ReadBytes ctl d n i e s).1.toNat / 2 ^ (8 * j) % 256 =
        if j < i then e.toNat / 2 ^ (8 * j) % 256 else if j < i + n then (a j).toNat % 256 else 0 := by
  induction n generalizing i e s with
  | zero =>
    refine ⟨fun _ => 0, by simp [spi2ReadBytes], by simp, ?_⟩
    intro j hj
    simp only [spi2ReadBytes, Nat.add_zero]
    split_ifs with h
    · rfl
    · have : e.toNat / 2 ^ (8*j) = 0 := Nat.div_eq_of_lt (lt_of_lt_of_le he (Nat.pow_le_pow_right (by omega) (by omega)))
      simp [this]
  | succ n ih =>
    have hs : spi2ReadByte ctl d s = ((s.nextAnswer q).setWidth 8, s.answered q) := by
      subst hq; unfold spi2ReadByte; split <;> rfl
    have hb : (byteInto ((s.nextAnswer q).setWidth 8) i).toNat = (s.nextAnswer q).toNat % 256 * 2 ^ (8*i) := by
      have : (s.nextAnswer q).toNat % 256 * 2 ^ (8*i) < 2 ^ 32 := by
        have : 2 ^ (8*i) ≤ 2^24 := Nat.pow_le_pow_right (by omega) (by omega)
        have h3 := Nat.mul_le_mul (show (s.nextAnswer q).toNat % 256 ≤ 255 by omega) this
        omega
      simp only [byteInto, BitVec.toNat_shiftLeft, BitVec.toNat_setWidth, Nat.shiftLeft_eq]
      rw [show ∀ v : Nat, v % 2^8 % 2^32 = v % 256 from fun v => by omega]
      exact Nat.mod_eq_of_lt this
    set x := (s.nextAnswer q).toNat % 256 with hx
    have hor : (e ||| byteInto ((s.nextAnswer q).setWidth 8) i).toNat = e.toNat + x * 2 ^ (8*i) := by
      rw [BitVec.toNat_or, hb, Nat.or_comm, Nat.mul_comm x, ← Nat.two_pow_add_eq_or_of_lt he]; omega
    have hx' : x < 256 := Nat.mod_lt _ (by omega)
    obtain ⟨a, h1, h3, h2⟩ := ih (i+1) (e ||| byteInto ((s.nextAnswer q).setWidth 8) i) (s.answered q) hq (by omega) (by
      rw [hor]
      have : 2 ^ (8 * (i+1)) = 256 * 2 ^ (8*i) := by rw [Nat.mul_add, Nat.pow_add]; ring
      rw [this]
      have := Nat.mul_le_mul_right (2 ^ (8*i)) (show x + 1 ≤ 256 by omega)
      linarith)
    refine ⟨fun k => if k = i then s.nextAnswer q else a k, ?_, answers_cons h3, ?_⟩
    · simp only [spi2ReadBytes, hs]
      rw [h1]
      simp only [State.answered, List.range_succ_eq_map, List.map_cons, List.map_map, Nat.add_zero, List.append_assoc,
        List.singleton_append, Function.comp_def, if_true]
      simp [Nat.add_assoc, Nat.add_comm 1]
    · intro j hj
      simp only [spi2ReadBytes, hs]
      rw [h2 j hj, hor]
      rcases Nat.lt_trichotomy j i with h | h | h
      · simp only [show j < i + 1 by omega, h, if_true]
        have : x * 2 ^ (8*i) = 2 ^ (8*j) * (256 * (x * 2 ^ (8*(i-j-1)))) := by
          have : 2 ^ (8*i) = 2 ^ (8*j) * (256 * 2 ^ (8*(i-j-1))) := by
            rw [show (256:Nat) = 2^8 by rfl, ← pow_add, ← pow_add]; congr 1; omega
          rw [this]; ring
        rw [this, Nat.add_mul_div_left _ _ (by positivity), Nat.add_mul_mod_self_left]
      · subst h
        simp only [Nat.lt_succ_self, Nat.lt_irrefl, if_true, if_false, show j < j + (n+1) by omega]
        rw [Nat.mul_comm x, Nat.add_mul_div_left _ _ (by positivity), Nat.div_eq_of_lt he, Nat.zero_add,
          Nat.mod_eq_of_lt hx']
      · simp only [show ¬ j < i + 1 by omega, show ¬ j < i by omega, if_false, show ¬ j = i by omega]
        congr 1; simp only [eq_iff_iff]; omega

/-! ## JTAG -/

/-- The clocks of a frame: one answer each, taken in the TAP's state, which moves on TMS; the captured bits (R341). -/
theorem jtagClocks_spec (f : JtagFrame) (n i : Nat) (out : Half) (s : State) (hi : i + n ≤ 16) (he : out.toNat < 2 ^ i) :
    ∃ a : Nat → RegVal,
      let at' (k : Nat) : TapState := tapRun s.tap ((List.range k).map (fun j => f.tms.getLsbD (i + j)))
      (jtagClocks f n i out s).2 = { s with
        tap := at' n
        env := ⟨s.env.answers.drop n, s.env.drawn + n⟩
        history := s.history ++ (List.range n).flatMap (fun k =>
          [.answer (.tdo (at' k) (f.tdi.getLsbD (i + k))) (a (i + k)),
           .jtagClock (at' k) (f.tms.getLsbD (i + k)) (f.tdi.getLsbD (i + k)) ((a (i + k)).getLsbD 0)]) } ∧
      (∀ k < n, k < s.env.answers.length → s.env.answers[k]? = some (a (i + k))) ∧
      ∀ j < 16, (jtagClocks f n i out s).1.getLsbD j =
        if j < i then out.getLsbD j else (decide (j < i + n) && (a j).getLsbD 0) := by
  induction n generalizing i out s with
  | zero =>
    refine ⟨fun _ => 0, by simp [jtagClocks, tapRun], by simp, ?_⟩
    intro j hj
    simp only [jtagClocks, Nat.add_zero]
    split_ifs with h
    · rfl
    · simp [h]
      apply Nat.testBit_lt_two_pow
      exact lt_of_lt_of_le he (Nat.pow_le_pow_right (by omega) (by omega))
  | succ n ih =>
    set q : Oracle := .tdo s.tap (f.tdi.getLsbD i)
    set x := (s.nextAnswer q).getLsbD 0 with hx
    have hs : jtagClock (f.tms.getLsbD i) (f.tdi.getLsbD i) s =
        (x, { (s.answered q).record (.jtagClock s.tap (f.tms.getLsbD i) (f.tdi.getLsbD i) x) with
          tap := tapNext s.tap (f.tms.getLsbD i) }) := rfl
    have hb : (BitVec.ofNat 16 (x.toNat * 2 ^ i)).toNat = x.toNat * 2 ^ i := by
      have h3 : 2 ^ i ≤ 2 ^ 15 := Nat.pow_le_pow_right (by omega) (by omega)
      simp only [BitVec.toNat_ofNat]
      apply Nat.mod_eq_of_lt
      cases x <;> simp; omega
    obtain ⟨a, h1, h3, h2⟩ := ih (i+1) (out ||| BitVec.ofNat 16 (x.toNat * 2 ^ i))
      { (s.answered q).record (.jtagClock s.tap (f.tms.getLsbD i) (f.tdi.getLsbD i) x) with
        tap := tapNext s.tap (f.tms.getLsbD i) } (by omega) (by
      rw [BitVec.toNat_or, hb]
      apply Nat.or_lt_two_pow
      · exact lt_trans he (Nat.pow_lt_pow_right (by omega) (by omega))
      · have : 0 < 2 ^ i := by positivity
        cases x <;> simp [pow_succ])
    refine ⟨fun k => if k = i then s.nextAnswer q else a k, ?_, answers_cons (s := s) (q := q) h3, ?_⟩
    · simp only [jtagClocks, hs]
      rw [h1]
      simp only [State.answered, State.record, List.range_succ_eq_map, List.map_cons, List.map_map, List.flatMap_cons,
        List.flatMap_map, Nat.add_zero, List.append_assoc, Function.comp_def, if_true, tapRun,
        List.cons_append, List.nil_append]
      simp [Nat.add_assoc, Nat.add_comm 1, q, x, tapRun]
    · intro j hj
      simp only [jtagClocks, hs]
      rw [h2 j hj]
      have hbit : (BitVec.ofNat 16 (x.toNat * 2 ^ i)).getLsbD j = (decide (j = i) && x) := by
        simp only [BitVec.getLsbD]
        rw [hb]
        cases x
        · simp
        · simp [Nat.testBit_two_pow, eq_comm]
      rcases Nat.lt_trichotomy j i with h | h | h
      · simp only [show j < i + 1 by omega, h, if_true, BitVec.getLsbD_or, hbit]; simp; omega
      · subst h
        simp only [Nat.lt_succ_self, Nat.lt_irrefl, if_true, if_false, show j < j + (n+1) by omega, BitVec.getLsbD_or, hbit]
        have : out.getLsbD j = false := by
          apply Nat.testBit_lt_two_pow; exact he
        simp [this, hx]
      · simp only [show ¬ j < i + 1 by omega, show ¬ j < i by omega, if_false, show ¬ j = i by omega]
        congr 2; simp only [eq_iff_iff]; omega

end Sys2Proof.Machine
end

