-- ==== Sys2Proof/Tests/Slice0.lean ====
section
/-! SUPPORT. The author's own tests: the well-formedness smoke, decoding of words written out from the encodings of 30_encoding.md, one-step
tests with expected results from 95_test_vectors.md, and for every obligation with hypotheses a witness that meets them. -/

namespace Sys2Proof.Tests

open Sys2Proof Sys2Proof.Machine

/-! ## Well-formedness: each check refuses a term -/

theorem test_wf_bank : (Instr.i2cRstat 7).WellFormed = true ∧ (Instr.i2cRstat 8).WellFormed = false := by decide

theorem test_wf_bank_every_access :
    [Instr.i2cWpreLo 8 0, .i2cWpreHi 8 0, .i2cRpreLo 8, .i2cRpreHi 8, .i2cWctrl 8 true, .i2cRctrl 8,
      .i2cWrite 8 0 false false, .i2cRead 8 false false false, .i2cStop 8, .i2cRdata 8].all
      (fun i => !i.WellFormed) = true := by decide

theorem test_wf_count : (Instr.jtagShift 0 0 0).WellFormed = false ∧ (Instr.jtagShift 17 0 0).WellFormed = false ∧
    (Instr.jtagShift 1 0 0).WellFormed = true ∧ (Instr.jtagShift 16 0 0).WellFormed = true := by decide

theorem test_wf_bit : (Instr.hostPoll 32 true).WellFormed = false ∧ (Instr.hostPoll 31 true).WellFormed = true ∧
    (Instr.hostCheck 32 true 0).WellFormed = false := by decide

theorem test_wf_status : (Instr.hostCheck 0 true 16).WellFormed = false ∧ (Instr.hostHalt 16).WellFormed = false ∧
    (Instr.hostHalt 15).WellFormed = true := by decide

/-! ## Decoding: the assembly table of 95_test_vectors.md section 2.1, one word per row of the opcode table -/

theorem test_decode_i2c_prescaler :
    decode 0x00000000000000F9#64 = some (.i2cWpreLo 0 0xF9#8) ∧ decode 0x0100000000000000#64 = some (.i2cWpreHi 0 0#8) ∧
    decode 0x0200000000000000#64 = some (.i2cRpreLo 0) ∧ decode 0x0300000000000000#64 = some (.i2cRpreHi 0) := by decide

theorem test_decode_i2c_core :
    decode 0x0400000000000001#64 = some (.i2cWctrl 0 true) ∧ decode 0x0500000000000000#64 = some (.i2cRctrl 0) ∧
    decode 0x0900000000000000#64 = some (.i2cRstat 0) ∧ decode 0x0A00000000000000#64 = some (.i2cRdata 0) := by decide

theorem test_decode_i2c_transfers :
    decode 0x0603000000000055#64 = some (.i2cWrite 3 0x55#8 false false) ∧
    decode 0x06000000000001A0#64 = some (.i2cWrite 0 0xA0#8 true false) ∧
    decode 0x0700000000000600#64 = some (.i2cRead 0 false true true) ∧
    decode 0x0700000000000100#64 = some (.i2cRead 0 true false false) ∧
    decode 0x0800000000000000#64 = some (.i2cStop 0) := by decide

theorem test_decode_bpi :
    decode 0x10000000A0000000#64 = some (.bpiCmd 0xA0000000#32) ∧ decode 0x1100000000000000#64 = some .bpiRdata ∧
    decode 0x1200000000000002#64 = some (.bpiWbank 2#8) ∧ decode 0x1300000000000000#64 = some .bpiRbank := by decide

theorem test_decode_spi2 :
    decode 0x2000000000000017#64 = some (.spi2Wctrl ⟨true, true, true, 2#2, false, 0#4⟩) ∧
    decode 0x2100000000000000#64 = some .spi2Rctrl ∧ decode 0x220000000000009F#64 = some (.spi2Wdata 0x9F#32) ∧
    decode 0x2300000000000000#64 = some .spi2Rdata := by decide

theorem test_decode_spid :
    decode 0x3000000000000046#64 = some (.spidWctrl ⟨false, true, 1#4, 1#4⟩) ∧
    decode 0x3100000000000001#64 = some (.spidWfsel 1#4) ∧ decode 0x3200000000000000#64 = some .spidRin := by decide

theorem test_decode_jtag :
    decode 0x4002000000010000#64 = some (.jtagShift 3 1#16 0#16) ∧ decode 0x4100000000000000#64 = some .jtagRtdo ∧
    decode 0x4200000000000003#64 = some (.jtagWpresc 3#16) ∧ decode 0x4300000000000000#64 = some .jtagRstat := by decide

theorem test_decode_host :
    decode 0xF000000000000000#64 = some (.hostPoll 0 false) ∧ decode 0xF102000000000006#64 = some (.hostCheck 2 false 6) ∧
    decode 0xF200000000000004#64 = some (.hostHalt 4) ∧ decode 0xF300000000000000#64 = some .hostBarrier ∧
    decode 0xF400000000000000#64 = some .hostB2b := by decide

/-- The legal words of V-E7, V-E9, V-E11, V-E12, V-E14 and V-E21. -/
theorem test_decode_boundaries :
    decode 0x0907000000000000#64 = some (.i2cRstat 7) ∧
    decode 0x400F0000FFFF1234#64 = some (.jtagShift 16 0xFFFF#16 0x1234#16) ∧
    decode 0x4200000000008003#64 = some (.jtagWpresc 0x8003#16) ∧
    decode 0xF100000000000007#64 = some (.hostCheck 0 false 7) ∧
    decode 0x10000000FFFFFFFF#64 = some (.bpiCmd 0xFFFFFFFF#32) ∧
    decode 0xF030000000000000#64 = some (.hostPoll 16 true) := by decide

/-- The illegal words of V-E1 to V-E6, V-E8, V-E10, V-E13 and V-E15 to V-E20. -/
theorem test_decode_illegal :
    [0x0B00000000000000#64, 0x5000000000000000#64, 0x0900000100000000#64, 0x0600000000000400#64, 0x07000000000000FF#64,
      0x0908000000000000#64, 0x4010000000000000#64, 0x4200000000010000#64, 0xF100000000000010#64, 0x0900000000000001#64,
      0x2000000000000040#64, 0x2000000000001000#64, 0x3000000000000400#64, 0xF340000000000000#64,
      0xF040000000000000#64].all (fun w => (decode w).isNone) = true := by decide

/-- V-E1 and V-E9 as bits of a table row: the same word through the host's entry. -/
theorem test_decode_table_word :
    decodeTableWord 64 0x400F0000FFFF1234 = some (.jtagShift 16 0xFFFF#16 0x1234#16) ∧
    decodeTableWord 64 0x0B00000000000000 = none := by decide

theorem test_encode :
    encode (.i2cRead 1 false true true) = 0x0701000000000600#64 ∧ encode (.jtagShift 3 1 0) = 0x4002000000010000#64 ∧
    encode (.spidWctrl ⟨true, true, 0#4, 1#4⟩) = 0x3000000000000043#64 ∧
    encode (.hostCheck 2 false 6) = 0xF102000000000006#64 := by decide

/-! ## Small states -/

/-- A property of the next state of an outcome. -/
def nextHas (o : Host.Outcome State Fault Refusal) (p : State → Bool) : Bool :=
  match o with
  | .next t => p t
  | _ => false

/-- An outcome is this fault. -/
def faultIs (o : Host.Outcome State Fault Refusal) (e : Fault) : Bool :=
  match o with
  | .fault x => decide (x = e)
  | _ => false

/-- A property of a successful result. -/
def okHas (r : Except Fault State) (p : State → Bool) : Bool :=
  match r with
  | .ok t => p t
  | .error _ => false

/-- A property of the fault of a result. -/
def errHas (r : Except Fault State) (e : Fault) : Bool :=
  match r with
  | .ok _ => false
  | .error x => decide (x = e)

/-- The reset state with the environment's next answers. -/
def r0 (answers : List RegVal) : State := { State.reset with env := ⟨answers, 0⟩ }

/-- The I2C core enabled and idle. -/
def i2cOn (answers : List RegVal) : State :=
  { r0 answers with i2c := { (r0 answers).i2c with en := true, enKnown := true } }

/-- The I2C core with an operation in progress. -/
def i2cBusyWith (op : I2cOp) (answers : List RegVal) : State :=
  { i2cOn answers with i2c := { (i2cOn answers).i2c with tip := true, pending := some op } }

/-- The BPI engine selected at an address, with commands to run and words in its read FIFO. -/
def bpiAt (addr : BitVec 24) (primed : Nat) (cmds : List RegVal) (words : List Half) (answers : List RegVal) : State :=
  { r0 answers with bpi := { (r0 answers).bpi with
      addr := addr, addrKnown := true, cs := true, csKnown := true, primed := primed, cmdq := cmds, rdq := words } }

/-- A host program loaded at index 0 and a last read result. -/
def hostAt (p : List MceWord) (pc : Nat) (last : RegVal) : State :=
  { State.reset with host := { State.reset.host with program := p, pc := pc, last := last, lastKnown := true } }

/-- A driver call running with this control stack. -/
def drvAt (ms : List Micro) : State :=
  { State.reset with host := { State.reset.host with mode := .driver, drv := { State.reset.host.drv with stack := ms } } }

/-- The reset state with posted register writes. -/
def postedMode (p : RegPath) : State :=
  { State.reset with cfg := { Config.vectors with regOrder := .postedUntilBarrier }, path := p }

/-! ## One-step tests: I2C (95_test_vectors.md section 2.2) -/

/-- V-I9. -/
theorem test_i2c_wpre_enabled : faultIs (exec (.i2cWpreLo 0 0x10#8) (i2cOn [])) (.i2cPrescEn 164) = true := by decide

/-- V-I10. -/
theorem test_i2c_wpre_reset :
    nextHas (exec (.i2cWpreLo 0 0xF9#8) (r0 [])) (fun t => t.i2c.preLo == 0xF9#8 && t.i2c.preLoKnown &&
      !t.i2c.preHiKnown) = true := by decide

/-- V-I11. -/
theorem test_i2c_rpre_unwritten : faultIs (exec (.i2cRpreHi 0) (r0 [])) (.unwritten 167) = true := by decide

/-- V-I12. -/
theorem test_i2c_write_unwritten : faultIs (exec (.i2cWrite 0 0xA0#8 true false) (r0 [])) (.unwritten 170) = true := by decide

/-- V-I13. -/
theorem test_i2c_read_disabled : faultIs (exec (.i2cRead 0 false false false) { i2cOn [] with i2c := { (i2cOn []).i2c with en := false } })
    (.i2cDisabled 172) = true := by decide

/-- V-I14. -/
theorem test_i2c_stop_in_progress : faultIs (exec (.i2cStop 0) (i2cBusyWith (.stop 0) [])) (.i2cTip 175) = true := by decide

/-- V-I15. -/
theorem test_i2c_bank : faultIs (exec (.i2cRstat 2) (r0 [])) .i2cBank = true := by decide

/-- V-I16: no START on a free bus reads as not acknowledged, with no draw. -/
theorem test_i2c_write_unaddressed :
    let t := i2cStep (i2cBusyWith (.write 0 0x33#8 false false) [0#32])
    t.i2c.rxack = true ∧ t.i2c.busy[0] = false ∧ t.i2c.tip = false ∧ t.env.drawn = 0 := by decide

/-- V-I17: the slave does not acknowledge; the STOP frees the bus. -/
theorem test_i2c_write_nack :
    let t := i2cStep (i2cBusyWith (.write 0 0xA0#8 true true) [1#32])
    i2cStatus t.i2c 0 = 4#32 ∧ t.env.drawn = 1 := by decide

/-- V-I18: the byte the slave sends, and a STOP. -/
theorem test_i2c_read_completes :
    let t := i2cStep (i2cBusyWith (.read 0 false true true) [0x5A#32])
    t.i2c.rx = some 0x5A#8 ∧ t.i2c.busy[0] = false ∧ t.i2c.rxack = false := by decide

/-- V-I18: reading the receive FIFO does not empty it. -/
theorem test_i2c_rdata :
    nextHas (exec (.i2cRdata 0) { r0 [] with i2c := { (r0 []).i2c with rx := some 0x5A#8 } })
      (fun t => t.host.last == 0x5A#32 && t.i2c.rx == some 0x5A#8) = true := by decide

/-- V-I19. -/
theorem test_i2c_rdata_empty : faultIs (exec (.i2cRdata 0) (i2cOn [])) .i2cRxEmpty = true := by decide

/-- V-I20: a disable abandons the write: no completion, and the bus state is drawn. -/
theorem test_i2c_disable_in_transfer :
    nextHas (exec (.i2cWctrl 0 false) (i2cBusyWith (.write 0 0xA0#8 true false) [1#32]))
      (fun t => !t.i2c.tip && t.i2c.pending == none && t.i2c.busy[0] && !t.i2c.en &&
        t.history == [.answer (.i2cBusy 0) 1#32, .access (.i2cWctrl 0 false) 0#32]) = true := by decide

/-- R168: an enable draws the bus state of both banks. -/
theorem test_i2c_enable :
    nextHas (exec (.i2cWctrl 0 true) (r0 [1#32, 0#32, 1#32]))
      (fun t => t.i2c.busy[0] && !t.i2c.busy[1] && !t.i2c.busy[2] && t.env.drawn == 2) = true := by decide

/-- R169: the enable reads back. -/
theorem test_i2c_rctrl :
    nextHas (exec (.i2cRctrl 1) (i2cOn [])) (fun t => t.host.last == 1#32) = true := by decide

/-- R165, R167: the high byte, and its read-back. -/
theorem test_i2c_wpre_hi :
    nextHas (exec (.i2cWpreHi 1 0x12#8) (r0 [])) (fun t => t.i2c.preHi == 0x12#8 && !t.i2c.preLoKnown) = true ∧
    nextHas (exec (.i2cRpreHi 0) { r0 [] with i2c := { (r0 []).i2c with preHi := 0x12#8, preHiKnown := true } })
      (fun t => t.host.last == 0x12#32) = true := by decide

/-- R166. -/
theorem test_i2c_rpre_lo :
    nextHas (exec (.i2cRpreLo 0) { i2cOn [] with i2c := { (i2cOn []).i2c with preLo := 0xF9#8, preLoKnown := true } })
      (fun t => t.host.last == 0xF9#32) = true := by decide

/-- V-I21, V-I22: a STOP on a free bus; RXACK is shared by the banks. -/
theorem test_i2c_stop_completes :
    (i2cStep (i2cBusyWith (.stop 0) [])).i2c.busy[0] = false ∧
    nextHas (exec (.i2cRstat 0) { r0 [] with i2c := { (r0 []).i2c with rxack := true } })
      (fun t => t.host.last == 4#32) = true := by decide

/-- Part 3 of 95_test_vectors.md: an issued write is in progress. -/
theorem test_i2c_write_issue :
    nextHas (exec (.i2cWrite 0 0xA0#8 true false) (i2cOn []))
      (fun t => t.i2c.tip && t.i2c.tx == 0xA0#8 && t.i2c.pending == some (.write 0 0xA0#8 true false) &&
        t.host.pc == 1) = true := by decide

/-- V-I1 to V-I8. -/
theorem test_i2c_frequencies :
    [100000, 400000, 1000000, 25000000, 25000001, 382, 381, 0].map (fun f => bus2core f 125000000) =
      [some 249, some 61, some 24, some 0, none, some 65444, none, none] := by decide

/-! ## One-step tests: BPI (section 2.3) -/

/-- V-B2 and V-B3: a burst without its priming. -/
theorem test_bpi_unprimed :
    errHas (bpiStep (bpiAt 0x1000#24 0 [0xB0000002#32] [] [])) .bpiUnprimed = true ∧
    errHas (bpiStep (bpiAt 0x1001#24 2 [0xB0000000#32] [] [])) .bpiUnprimed = true := by decide

/-- V-B4: a burst of one word. -/
theorem test_bpi_burst_one :
    okHas (bpiStep (bpiAt 0x1002#24 3 [0xB0000000#32] [] [0xABCD#32])) (fun t => t.bpi.rdq == [0xABCD#16] &&
      t.bpi.addr == 0x1003#24 && t.bpi.primed == 3 && t.bpi.cmdq == [] && t.bpi.burstLeft == 0) = true := by decide

/-- V-B5 to V-B13: the words that the checks of R222 refuse. -/
theorem test_bpi_refused_words :
    [0x03000000#32, 0x60000000#32, 0x10000000#32, 0x80000000#32, 0x28000000#32, 0x44000000#32, 0x84000000#32,
      0x00000001#32, 0x40010000#32].all (fun c => errHas (bpiStep (bpiAt 0#24 3 [c] [] [])) (.bpiCmd 222)) = true := by decide

/-- V-B14: the empty word. -/
theorem test_bpi_empty_word :
    okHas (bpiStep (bpiAt 0x20#24 1 [0#32] [] [])) (fun t => t.bpi.cmdq == [] && t.bpi.addr == 0x20#24 &&
      t.bpi.primed == 1 && t.bpi.cs && t.bpi.rdq == []) = true := by decide

/-- V-B15: a read from reset. -/
theorem test_bpi_unwritten :
    errHas (bpiStep { r0 [] with bpi := { (r0 []).bpi with cmdq := [0x20000000#32] } }) (.unwritten 225) = true := by decide

/-- V-B16: the address wraps inside the bank. -/
theorem test_bpi_wraps :
    let s := bpiAt 0xFFFF#24 1 [0xA0000000#32] [] [7#32]
    okHas (bpiStep { s with cfg := { s.cfg with bpiAddressMask := 0xFFFF#24 } })
      (fun t => t.bpi.addr == 0#24 && t.bpi.primed == 2 && t.bpi.rdq == [7#16] &&
        t.history == [.answer (.flashWord 0#8 0#24) 7#32, .bpiDone 0xA0000000#32]) = true := by decide

/-- V-B17: an address outside the bank. -/
theorem test_bpi_load_outside :
    let s := bpiAt 0#24 0 [0x04010000#32] [] []
    errHas (bpiStep { s with cfg := { s.cfg with bpiAddressMask := 0xFFFF#24 } }) (.bpiCmd 224) = true := by decide

/-- V-B18: a write is recorded and clears the priming. -/
theorem test_bpi_write :
    okHas (bpiStep (bpiAt 0x20#24 3 [0x400000FF#32] [] [])) (fun t => t.bpi.primed == 0 && t.bpi.rdq == [] &&
      t.history == [.flashWrite 0#8 0x20#24 0xFF#16, .bpiDone 0x400000FF#32]) = true := by decide

/-- V-B19: with no flash selected nothing is recorded. -/
theorem test_bpi_write_deselected :
    let s := bpiAt 0x20#24 0 [0xC0001234#32] [] []
    okHas (bpiStep { s with bpi := { s.bpi with cs := false } })
      (fun t => t.bpi.addr == 0x21#24 && t.history == [.bpiDone 0xC0001234#32]) = true := by decide

/-- V-B20: the first status word is not ready, the last one is. -/
theorem test_bpi_wait_ready :
    okHas (bpiStep (bpiAt 0#24 0 [0x08000000#32] [] [0#32])) (fun t => t.bpi.waiting && t.bpi.cmdq == [0x08000000#32] &&
      t.bpi.rdq == [0#16]) = true ∧
    okHas (bpiStep { bpiAt 0#24 0 [0x08000000#32] [] [0x80#32] with
        bpi := { (bpiAt 0#24 0 [0x08000000#32] [] []).bpi with waiting := true } })
      (fun t => !t.bpi.waiting && t.bpi.cmdq == [] && t.bpi.rdq == [0x80#16]) = true := by decide

/-- V-B21: an empty FIFO, with both answers of the error bit. -/
theorem test_bpi_rdata_empty :
    nextHas (exec .bpiRdata (r0 [0#32])) (fun t => t.host.last == 0x00010000#32) = true ∧
    nextHas (exec .bpiRdata (r0 [1#32])) (fun t => t.host.last == 0x00050000#32) = true := by decide

/-- V-B22: a full FIFO of depth 2. -/
theorem test_bpi_rdata_full :
    let s := bpiAt 0#24 0 [] [0x1234#16, 0x5678#16] [0#32]
    nextHas (exec .bpiRdata { s with cfg := { s.cfg with bpiReadFifoDepth := 2 } })
      (fun t => t.host.last == 0x00021234#32 && t.bpi.rdq == [0x5678#16]) = true := by decide

/-- V-B23: a second bank write before the completion; the completion takes. -/
theorem test_bpi_wbank :
    nextHas (exec (.bpiWbank 2#8) { r0 [] with cpld := ⟨1#8, true, 0#8, true⟩ })
      (fun t => t.cpld == ⟨2#8, true, 0#8, true⟩) = true ∧
    (cpldStep { r0 [1#32] with cpld := ⟨2#8, true, 0#8, true⟩ }).cpld = ⟨2#8, true, 2#8, false⟩ := by decide

/-- V-B24. -/
theorem test_bpi_rbank :
    nextHas (exec .bpiRbank { r0 [] with cpld := ⟨3#8, true, 3#8, false⟩, cfg := { Config.vectors with bpiBankVerify := true } })
      (fun t => t.host.last == 0x300#32) = true := by decide

/-- V-H9: a command write to a full FIFO waits; to one with a free place it is accepted. -/
theorem test_bpi_cmd :
    enabled .host { (hostAt [0x1000000001000000#64] 0 0#32) with
      bpi := { State.reset.bpi with cmdq := List.replicate 8 0#32 } } = false ∧
    nextHas (exec (.bpiCmd 0x20000000#32) (r0 [])) (fun t => t.bpi.cmdq == [0x20000000#32]) = true := by decide

/-! ## One-step tests: SPI-v2 (section 2.4) -/

/-- V-S2: an answer of all ones: VALID and the undefined bits read 0. -/
theorem test_spi2_rctrl_unknown :
    nextHas (exec .spi2Rctrl (r0 [0xFFFFFFFF#32])) (fun t => t.host.last == 0xF3B#32) = true := by decide

/-- V-S3. -/
theorem test_spi2_write_unwritten :
    errHas (spi2Step { r0 [] with spi2 := { (r0 []).spi2 with accq := [⟨⟨true, false, true, 0#2, false, 0#4⟩, 0#32, false⟩] } })
      (.unwritten 271) = true := by decide

/-- V-S4: the first access is disturbed. -/
theorem test_spi2_first_write :
    okHas (spi2Step { r0 [] with spi2 := { (r0 []).spi2 with accq := [⟨⟨true, false, true, 0#2, false, 0#4⟩, 6#32, true⟩] } })
      (fun t => !t.spi2.fresh && t.history.head? == some (.spiWrite 0#4 false true 6#8 true)) = true := by decide

/-- V-S6: the bytes above the second are 0. -/
theorem test_spi2_read :
    okHas (spi2Step { r0 [0xEF#32, 0x40#32] with spi2 := { (r0 []).spi2 with
        fresh := false, accq := [⟨⟨true, true, true, 1#2, false, 0#4⟩, 0#32, false⟩] } })
      (fun t => t.spi2.rdq == [0x40EF#32] && t.spi2.accq == []) = true := by decide

/-- V-S7, and the entry leaves the FIFO. -/
theorem test_spi2_rdata :
    faultIs (exec .spi2Rdata (r0 [])) .spi2RxEmpty = true ∧
    nextHas (exec .spi2Rdata { r0 [] with spi2 := { (r0 []).spi2 with rdq := [0x1840EF#32, 5#32] } })
      (fun t => t.host.last == 0x1840EF#32 && t.spi2.rdq == [5#32]) = true := by decide

/-- V-S8: the data register is captured at issue. -/
theorem test_spi2_wctrl_captures :
    nextHas (exec (.spi2Wctrl ⟨true, false, true, 0#2, false, 0#4⟩)
        { r0 [] with spi2 := { (r0 []).spi2 with txd := 0x11#32, txdKnown := true } })
      (fun t => t.spi2.accq == [⟨⟨true, false, true, 0#2, false, 0#4⟩, 0x11#32, true⟩] && t.spi2.fresh) = true ∧
    nextHas (exec (.spi2Wdata 0x22#32) (r0 [])) (fun t => t.spi2.txd == 0x22#32 && t.spi2.txdKnown) = true := by decide

/-- V-S9 and V-S10: the latched fields, and the FIFO bit. -/
theorem test_spi2_rctrl :
    nextHas (exec .spi2Rctrl { r0 [] with spi2 := { (r0 []).spi2 with
        ctrl := ⟨true, false, false, 0#2, false, 0#4⟩, ctrlKnown := true } })
      (fun t => t.host.last == 1#32) = true ∧
    nextHas (exec .spi2Rctrl { r0 [] with spi2 := { (r0 []).spi2 with
        ctrl := ⟨true, true, false, 1#2, false, 0#4⟩, ctrlKnown := true, rdq := [0x40EF#32] } })
      (fun t => t.host.last == 0x1000B#32) = true := by decide

/-! ## One-step tests: SPI-dual (section 2.5) -/

/-- The lines of `D.ctrl = 0x42` on flash 1. -/
def spidLow : State := { r0 [] with spid := ⟨⟨false, true, 0#4, 1#4⟩, true, 1#4, true⟩ }

/-- V-D11: a rising edge, then the same write again: no edge. -/
theorem test_spid_wctrl :
    nextHas (exec (.spidWctrl ⟨true, true, 0#4, 1#4⟩) spidLow) (fun t => t.history ==
      [.spidRise (some 1#4) 0#4 1#4, .spidCtrl ⟨true, true, 0#4, 1#4⟩, .access (.spidWctrl ⟨true, true, 0#4, 1#4⟩) 0x43#32]) = true ∧
    nextHas (exec (.spidWctrl ⟨true, true, 0#4, 1#4⟩) { spidLow with spid := { spidLow.spid with ctrl := ⟨true, true, 0#4, 1#4⟩ } })
      (fun t => t.history.head? == some (.spidCtrl ⟨true, true, 0#4, 1#4⟩)) = true := by decide

/-- The example of R301: a falling edge; and R302. -/
theorem test_spid_fall_and_select :
    nextHas (exec (.spidWctrl ⟨false, true, 0#4, 1#4⟩) { spidLow with spid := { spidLow.spid with ctrl := ⟨true, true, 0#4, 1#4⟩ } })
      (fun t => t.history.head? == some (.spidFall (some 1#4))) = true ∧
    nextHas (exec (.spidWfsel 1#4) (r0 [])) (fun t => t.spid.fsel == 1#4 && t.history.head? == some (.spidFsel 1#4)) = true := by
  decide

/-- V-D10: driven lines read back. -/
theorem test_spid_rin_driven :
    nextHas (exec .spidRin { r0 [0xFF#32] with spid := ⟨⟨false, true, 5#4, 15#4⟩, true, 1#4, true⟩ })
      (fun t => t.host.last == 5#32 && t.env.drawn == 0) = true := by decide

/-- V-D4: D0 driven 0, the flash drives D1 high. -/
theorem test_spid_rin :
    nextHas (exec .spidRin { spidLow with env := ⟨[1#32, 0#32, 0#32], 0⟩ })
      (fun t => t.host.last == 2#32 && t.env.drawn == 3) = true := by decide

/-! ## One-step tests: JTAG (section 2.6) -/

/-- A frame in progress from a TAP state. -/
def jtagWith (f : JtagFrame) (t : TapState) (answers : List RegVal) : State :=
  { r0 answers with jtag := { (r0 []).jtag with busy := true, pending := f }, tap := t }

/-- V-J4, and an accepted frame. -/
theorem test_jtag_shift :
    faultIs (exec (.jtagShift 1 0#16 0#16) (jtagWith ⟨3, 1#16, 0#16⟩ .runTestIdle [])) (.jtagBusy 340) = true ∧
    nextHas (exec (.jtagShift 3 1#16 0#16) (r0 [])) (fun t => t.jtag.busy && t.jtag.pending == ⟨3, 1#16, 0#16⟩ &&
      t.tap == .testLogicReset) = true := by decide

/-- V-J5, and V-E11: the bits above the width are ignored. -/
theorem test_jtag_wpresc :
    faultIs (exec (.jtagWpresc 2#16) (jtagWith ⟨3, 1#16, 0#16⟩ .runTestIdle [])) (.jtagBusy 343) = true ∧
    nextHas (exec (.jtagWpresc 0x8003#16) { r0 [] with cfg := { Config.vectors with jtagPrescalerBits := 4 } })
      (fun t => t.jtag.presc == 3#16) = true := by decide

/-- V-J6, V-J7. -/
theorem test_jtag_rtdo :
    nextHas (exec .jtagRtdo (r0 [0x12345#32])) (fun t => t.host.last == 0x2345#32) = true ∧
    nextHas (exec .jtagRtdo { r0 [] with jtag := { (r0 []).jtag with tdo := 5#16, tdoKnown := true } })
      (fun t => t.host.last == 5#32 && t.env.drawn == 0) = true := by decide

/-- V-J8. -/
theorem test_jtag_rstat :
    nextHas (exec .jtagRstat (jtagWith ⟨3, 1#16, 0#16⟩ .runTestIdle [])) (fun t => t.host.last == 1#32) = true ∧
    nextHas (exec .jtagRstat (r0 [])) (fun t => t.host.last == 0#32) = true := by decide

/-- V-J7, and example E3: TDO draws 1, 0, 1 and TMS 1, 0, 0 from Run-Test/Idle. -/
theorem test_jtag_completes :
    let t := jtagStep (jtagWith ⟨3, 1#16, 0#16⟩ .runTestIdle [1#32, 0#32, 1#32])
    t.jtag.tdo = 5#16 ∧ t.tap = .shiftDr ∧ t.jtag.busy = false := by decide

/-- V-J9, V-J10. -/
theorem test_jtag_reset_and_undriven :
    (jtagStep (jtagWith ⟨5, 0x1F#16, 0#16⟩ .shiftIr [])).tap = .testLogicReset ∧
    (jtagStep (jtagWith ⟨4, 0xFFF0#16, 0#16⟩ .shiftIr [])).tap = .shiftIr := by decide

/-- V-J3, at the cap of a four-bit prescaler. -/
theorem test_jtag_frequencies :
    [10000000, 7812500, 7812499, 62500000].map (fun f => jtagPrescFor { Config.vectors with jtagPrescalerBits := 4 } f) =
      [3, 3, 4, 0] ∧
    jtagPrescFor { Config.vectors with jtagPrescalerBits := 4 } 1 = 15 := by decide

/-! ## One-step tests: the host (section 2.7) -/

/-- V-H1, V-H2. -/
theorem test_host_poll_first :
    faultIs (exec (.hostPoll 0 false) (hostAt [0xF000000000000000#64] 0 0#32)) .hostPoll = true ∧
    faultIs (exec (.hostPoll 0 false) (hostAt [0x0400000000000000#64, 0xF000000000000000#64] 1 0#32)) .hostPoll = true := by
  decide

/-- V-H10, V-H11: a failed test steps back, or the bound has expired. -/
theorem test_host_poll :
    nextHas (exec (.hostPoll 0 false) { hostAt [0x4300000000000000#64, 0xF000000000000000#64] 1 1#32 with env := ⟨[0#32], 0⟩ })
      (fun t => t.host.pc == 0 && t.host.status == none) = true ∧
    nextHas (exec (.hostPoll 0 false) { hostAt [0x4300000000000000#64, 0xF000000000000000#64] 1 1#32 with env := ⟨[1#32], 0⟩ })
      (fun t => t.host.pc == 1 && t.host.status == some .timeout) = true := by decide

/-- V-H3, V-H4. -/
theorem test_host_check :
    faultIs (exec (.hostCheck 0 false 4) { hostAt [0#64, 0#64] 0 0#32 with host := { (hostAt [0#64, 0#64] 0 0#32).host with lastKnown := false } })
      (.unwritten 404) = true ∧
    nextHas (exec (.hostCheck 2 false 6) (hostAt [0#64, 0#64] 0 4#32))
      (fun t => t.host.pc == 0 && t.host.status == some .noAck) = true := by decide

/-- V-H5, V-E12. -/
theorem test_host_check_passes :
    nextHas (exec (.hostCheck 2 true 6) (hostAt [0#64, 0#64] 0 4#32)) (fun t => t.host.pc == 1 && t.host.status == none) = true ∧
    faultIs (exec (.hostCheck 0 false 7) (hostAt [0#64, 0#64] 0 4#32)) (.illegal 404) = true := by decide

/-- V-H6: the word after the halt never runs. -/
theorem test_host_halt :
    nextHas (exec (.hostHalt 4) (hostAt [0xF200000000000004#64, 0x0800000000000000#64] 0 0#32))
      (fun t => t.host.pc == 0 && t.host.status == some .deviceIO && !enabled .host t) = true := by decide

/-- V-H8. -/
theorem test_host_fences :
    nextHas (exec .hostBarrier (hostAt [0#64, 0#64] 0 0#32)) (fun t => t.host.pc == 1 && t.history == [.barrier]) = true ∧
    nextHas (exec .hostB2b (hostAt [0#64, 0#64] 0 0#32)) (fun t => t.host.pc == 1 && t.history == [.b2b]) = true := by decide

/-! ## Layouts, other lock domains and driver calls -/

/-- R106: a layout that swaps the two halves, and one that gives two bits one place. -/
theorem test_layout :
    layoutOk [⟨16, 16⟩, ⟨16, 0⟩] = true ∧ layoutOk [⟨31, 0⟩, ⟨1, 30⟩] = false ∧
    toReal [⟨16, 16⟩, ⟨16, 0⟩] 0x00051234#32 = 0x12340005#32 ∧ toModel [⟨16, 16⟩, ⟨16, 0⟩] 0x12340005#32 = 0x00051234#32 := by
  decide

/-- R75: a row whose address the bank bits make odd gives no register. -/
theorem test_misaligned :
    faultIs (exec (.i2cRstat 1) { r0 [] with cfg := { Config.vectors with i2cBanks := [⟨0, 0, 0, 100000⟩, ⟨1, 1, 0, 100000⟩] } })
      .badAddr = true := by decide

/-- R411: the host agent of another lock domain writes its own unit; an access of a foreign unit faults. -/
theorem test_other_host :
    (let c := { Config.vectors with ownUnits := [.i2c, .bpi, .spi2, .spid], otherDomains := [[.jtag]] }
     let s := (State.resetWith c .named).onDomain 0
      (fun s => s.withProgram [encode (.jtagWpresc 3#16), encode (.bpiCmd 0#32)])
     nextHas (agentStep (.foreign 0) s) (fun t => t.jtag.presc == 3#16 && t.host == s.host &&
      t.others.map (fun h => h.host.pc) == [1] && faultIs (agentStep (.foreign 0) t) .lockDomain)) = true := by decide

/-- R131: `command_id` is the first four bytes, low byte first. -/
theorem test_command_id :
    commandId [0x78#16, 0x56#16, 0x34#16, 0x12#16, 0xFF#16] = 0x12345678#32 ∧
    commandPayload [0x78#16, 0x56#16, 0x34#16, 0x12#16, 0xFF#16] = [0xFF#16] := by decide

/-- R127: a word of a BPI read shot is kept aside, and reaches the destination at the end of the shot. -/
theorem test_bpi_read_shot :
    (let s := { drvAt [.run .bpiTake, .run (.bpiStore 0)] with
      host := { (drvAt [.run .bpiTake, .run (.bpiStore 0)]).host with last := 0x8001234#32 } }
     nextHas (driverStep s) (fun t => t.host.drv.buf == [] && t.host.drv.words == [0x1234#16] &&
      nextHas (driverStep t) (fun u => u.host.drv.buf == [0x1234#16]))) = true := by decide

/-- R465: after the last call teardown runs, of the controllers of the host agent's lock domain; then no call runs. -/
theorem test_teardown :
    nextHas (driverStep (drvAt []).withTeardown) (fun t => t.host.status == none && t.host.drv.teardown == .running &&
      t.host.drv.calls == [.cleanup (.i2cBank 0), .cleanup (.i2cBank 1), .cleanup .bpi, .cleanup .spi2, .cleanup .spid,
        .cleanup .jtag]) = true ∧
    teardownCalls { Config.vectors with ownUnits := [.jtag] } = [.cleanup .jtag] ∧
    (let s := (drvAt []).setDrv { (drvAt []).host.drv with teardown := .done, calls := [.cleanup .jtag] }
     nextHas (driverStep s) (fun t => t.host.status == some .ok && t.host.drv.stack == [])) = true := by decide

/-- U24, R133: `cleanup` of a bank view that the core does not have is refused and issues nothing. -/
theorem test_cleanup_absent_bank :
    nextHas (driverStep (drvAt [.run (.cleanup (.i2cBank 2))])) (fun t =>
      t.host.drv.status == .invalidArgument && t.host.drv.stack == [] && t.history == []) = true := by decide

/-- R123, R349: no JTAG read shot has more than 16 bits, whatever `MAX_BYTES_PER_READ` says. -/
theorem test_jtag_read_shot :
    maxReadShot { Config.vectors with jtagSizes := ⟨5, 1, 1⟩ } .jtag = 16 ∧
    maxReadShot { Config.vectors with jtagSizes := ⟨1, 1, 1⟩ } .jtag = 8 := by decide

/-- R126: a BPI burst without `addr` is rejected, a StateChange and a CommandExec burst too; with one it goes on. -/
theorem test_bpi_without_addr :
    (let at' (p : Proc) (n : BitVec 32) (addr : Option Nat) : State := (drvAt [.run p]).setDrv { (drvAt [.run p]).host.drv with
       ctl := .bpi, hdr := ⟨n, 0x10#32, 4#32⟩, addr := addr }
     nextHas (driverStep (at' .preFlags 2#32 none)) (fun t => t.host.drv.status == .invalidArgument) &&
     nextHas (driverStep (at' .commandExec 3#32 none)) (fun t => t.host.drv.status == .invalidArgument) &&
     nextHas (driverStep (at' .preFlags 2#32 (some 0))) (fun t => t.host.drv.status == .ok &&
       t.host.drv.stack == [.op (.bpiCmd 0x01000000#32)])) = true := by decide

/-- V-E1: an illegal word faults. -/
theorem test_step_illegal :
    faultIs (step (State.reset.withFetchWord 64 0x0B00000000000000)) (.illegal 91) = true := by decide

/-- A stored word is the next instruction to run. -/
theorem test_step_stored :
    nextHas (step (State.reset.withFetchWord 64 0x4200000000000003)) (fun t => t.jtag.presc == 3#16 && t.host.pc == 1) = true := by
  decide

/-! ## Witnesses: for every obligation with hypotheses, states and operands that meet them, clause by clause -/

theorem witness_decode_encode : (Instr.hostCheck 31 true 15).WellFormed = true ∧ (Instr.i2cStop 0).WellFormed = true ∧
    (Instr.jtagShift 1 0 0).WellFormed = true ∧ (Instr.jtagShift 16 0 0).WellFormed = true := by decide

theorem witness_encode_decode : decode 0x20000000000003BF#64 = none ∧
    decode 0x2000000000000F3F#64 = some (.spi2Wctrl ⟨true, true, true, 3#2, true, 15#4⟩) := by decide

theorem witness_illegal_words :
    let s := hostAt [0x0B00000000000000#64] 0 0#32
    s.host.mode = .program ∧ s.host.status = none ∧ fetchWord s = some 0x0B00000000000000#64 ∧
      opcodeRows.all (fun r => 0x0B00000000000000#64 &&& r.1 != r.2) = true := by decide

/-- The host's turn, a word to run, and `n` commands in the command FIFO. -/
def turnAt (w : MceWord) (n : Nat) : State :=
  { hostAt [w] 0 0#32 with
    sched := ⟨[.host], 0⟩
    bpi := { State.reset.bpi with cmdq := List.replicate n 0#32 } }

theorem witness_step_runs_decoded :
    (let s := turnAt 0x1000000001000000#64 7
     s.host.mode = .program ∧ s.host.status = none ∧ fetchWord s = some 0x1000000001000000#64 ∧
      nextAgent s = some .host ∧ accepts (.bpiCmd 0x01000000#32) s = true) ∧
    (let s := turnAt 0x1000000001000000#64 8
     s.host.mode = .program ∧ s.host.status = none ∧ fetchWord s = some 0x1000000001000000#64 ∧
      nextAgent s = some .host ∧ accepts (.bpiCmd 0x01000000#32) s = false) ∧
    (let s := turnAt 0x0B00000000000000#64 0
     s.host.mode = .program ∧ s.host.status = none ∧ fetchWord s = some 0x0B00000000000000#64 ∧
      nextAgent s = some .host) ∧
    decode 0x1000000001000000#64 = some (.bpiCmd 0x01000000#32) ∧ decode 0x0B00000000000000#64 = none := by decide

theorem witness_stored_word_runs :
    (Instr.jtagShift 16 0xFFFF#16 0x1234#16).WellFormed = true ∧
    accepts (.jtagShift 16 0xFFFF#16 0x1234#16) (hostAt [0#64, 1#64] 1 0#32) = true ∧
    1 ≠ (hostAt [0#64, 1#64] 0 0#32).host.pc ∧ 1 < (hostAt [0#64, 1#64] 0 0#32).host.program.length := by decide

theorem witness_step_choices :
    (State.reset.sched.turns = [] ∧ quiet State.reset = true) ∧
    ((hostAt [0xF300000000000000#64] 0 0#32).sched.turns = [] ∧ quiet (hostAt [0xF300000000000000#64] 0 0#32) = false) ∧
    (let s := { i2cBusyWith (.stop 0) [] with sched := ⟨[.i2c, .host], 0⟩ }
     s.sched.turns = .i2c :: [.host] ∧ enabled .i2c s = true) ∧
    (let s := { State.reset with sched := ⟨[.bus 3], 0⟩ }
     s.sched.turns = .bus 3 :: [] ∧ enabled (.bus 3) s = false) := by decide

theorem witness_access_faults :
    (let i := Instr.i2cRstat 2
     i.isHost = false ∧ accepts i State.reset = true ∧ i.bank? = some 2 ∧ State.reset.cfg.i2cNumBanks ≤ 2) ∧
    (let s := { State.reset with cfg := { Config.vectors with ownUnits := [.bpi] } }
     let i := Instr.i2cRstat 1
     i.isHost = false ∧ accepts i s = true ∧ i.bank? = some 1 ∧ 1 < s.cfg.i2cNumBanks ∧ i.unit ∉ s.cfg.ownUnits) ∧
    (let s := { State.reset with cfg := { Config.vectors with binding := [] } }
     let i := Instr.jtagRstat
     i.isHost = false ∧ accepts i s = true ∧ i.bank? = none ∧ i.unit ∈ s.cfg.ownUnits ∧ regAddr s.cfg i = none) ∧
    (let i := Instr.i2cRstat 1
     i.isHost = false ∧ accepts i State.reset = true ∧ accessFault State.reset.cfg i = none) := by
  decide

/-- A posted mode state with one posted write, behind a fence on it. -/
def postedOne : State := postedMode ⟨[⟨0, .jtagWpresc 3#16, none⟩], 1, none, some 0⟩

theorem witness_posted_writes :
    (Instr.spi2Wdata 5#32).isWrite = true ∧ accessFault postedOne.cfg (.spi2Wdata 5#32) = none ∧
    postedOne.cfg.regOrder = .postedUntilBarrier := by decide

/-- A posted mode state with a full command FIFO and a command word to run. -/
def postedFull : State :=
  { postedOne with
    bpi := { postedOne.bpi with cmdq := List.replicate 8 0#32 }
    host := { postedOne.host with program := [0x1000000001000000#64] } }

theorem witness_posted_writes_full :
    (Instr.bpiCmd 0x01000000#32).isWrite = true ∧ accessFault postedFull.cfg (.bpiCmd 0x01000000#32) = none ∧
    postedFull.cfg.regOrder = .postedUntilBarrier ∧ postedFull.cfg.bpiCmdFifoDepth ≤ postedFull.bpi.cmdq.length ∧
    postedFull.host.mode = .program ∧ fetchWord postedFull = some (encode (.bpiCmd 0x01000000#32)) := by decide

theorem witness_posted_other_words :
    (Instr.jtagRstat.isWrite = false ∧ postedOne.cfg.regOrder = .postedUntilBarrier ∧
      accepts .jtagRstat postedOne = false) ∧
    (accepts .jtagRstat (postedMode ⟨[], 1, some 0, some 0⟩) = true ∧ (Instr.hostHalt 0).isWrite = false ∧
      accepts (.hostHalt 0) postedOne = true) := by decide

theorem witness_posted_performed :
    postedOne.path.posted[0]? = some ⟨0, .jtagWpresc 3#16, none⟩ ∧
    okHas (busStep 0 postedOne) (fun t => t.jtag.presc == 3#16 && t.path.posted == []) = true ∧
    (let s := { postedOne with jtag := { postedOne.jtag with busy := true } }
     s.path.posted[0]? = some ⟨0, .jtagWpresc 3#16, none⟩ ∧
      errHas (writeEffect (.jtagWpresc 3#16) { s with path := { s.path with posted := s.path.posted.eraseIdx 0 } })
        (.jtagBusy 343) = true) := by decide

/-- An access of the reset state reaches its register, and every access is performed in order. -/
theorem direct_reset (i : Instr) (h : accessFault Config.vectors i = none) (s : State) (hs : s.cfg = Config.vectors) :
    Direct i s := by
  refine ⟨?_, ?_⟩ <;> rw [hs]
  · exact h
  · rfl

theorem witness_i2c_prescaler :
    Direct (.i2cWpreLo 0 0xF9#8) State.reset ∧ Direct (.i2cWpreHi 1 0#8) (i2cOn []) ∧
    State.reset.i2c.enKnown = false ∧ ((i2cOn []).i2c.enKnown = true ∧ (i2cOn []).i2c.en = true) ∧
    (State.reset.cfg.i2cNumBanks ≤ 2 ∧ accepts (.i2cWpreLo 2 0#8) State.reset = true) :=
  ⟨direct_reset _ (by decide) _ rfl, direct_reset _ (by decide) _ rfl, by decide, by decide, by decide⟩

theorem witness_i2c_enable :
    (Direct (.i2cWctrl 0 true) (i2cOn []) ∧ (i2cOn []).i2c.enKnown = true ∧ (i2cOn []).i2c.en = true) ∧
    (Direct (.i2cWctrl 1 true) State.reset ∧ ¬(State.reset.i2c.enKnown = true ∧ State.reset.i2c.en = true)) ∧
    (Direct (.i2cWctrl 0 false) State.reset ∧ State.reset.i2c.tip = false) ∧
    (let s := i2cBusyWith (.stop 1) []
     Direct (.i2cWctrl 0 false) s ∧ s.i2c.tip = true ∧ s.i2c.pending = some (.stop 1)) :=
  ⟨⟨direct_reset _ (by decide) _ rfl, by decide⟩, ⟨direct_reset _ (by decide) _ rfl, by decide⟩,
    ⟨direct_reset _ (by decide) _ rfl, by decide⟩, ⟨direct_reset _ (by decide) _ rfl, by decide⟩⟩

theorem witness_i2c_transfer_issue :
    (Direct (.i2cStop 0) State.reset ∧ State.reset.i2c.enKnown = false) ∧
    (let s := { i2cOn [] with i2c := { (i2cOn []).i2c with en := false } }
     Direct (.i2cRead 0 true true true) s ∧ s.i2c.enKnown = true ∧ s.i2c.en = false) ∧
    (let s := i2cBusyWith (.stop 0) []
     Direct (.i2cWrite 1 0#8 true true) s ∧ s.i2c.enKnown = true ∧ s.i2c.en = true ∧ s.i2c.tip = true) ∧
    (Direct (.i2cWrite 1 0xFF#8 true true) (i2cOn []) ∧ (i2cOn []).i2c.enKnown = true ∧ (i2cOn []).i2c.en = true ∧
      (i2cOn []).i2c.tip = false) ∧
    ((Instr.i2cStop 2).bank? = some 2 ∧ State.reset.cfg.i2cNumBanks ≤ 2) :=
  ⟨⟨direct_reset _ (by decide) _ rfl, by decide⟩, ⟨direct_reset _ (by decide) _ rfl, by decide⟩,
    ⟨direct_reset _ (by decide) _ rfl, by decide⟩, ⟨direct_reset _ (by decide) _ rfl, by decide⟩, by decide⟩

theorem witness_i2c_register_reads :
    Direct (.i2cRpreLo 0) State.reset ∧ Direct (.i2cRpreHi 1) State.reset ∧ Direct (.i2cRctrl 0) (i2cOn []) ∧
    (i2cOn []).i2c.enKnown = true ∧ State.reset.i2c.preLoKnown = false ∧
    (Direct (.i2cRstat 1) State.reset ∧ 1 < 8) ∧ (Direct (.i2cRdata 0) State.reset ∧ State.reset.i2c.rx = none) ∧
    (let s := { State.reset with i2c := { State.reset.i2c with rx := some 0x5A#8, preLoKnown := true, preHiKnown := true } }
     Direct (.i2cRdata 1) s ∧ s.i2c.rx = some 0x5A#8 ∧ s.i2c.preLoKnown = true ∧ s.i2c.preHiKnown = true) :=
  ⟨direct_reset _ (by decide) _ rfl, direct_reset _ (by decide) _ rfl, direct_reset _ (by decide) _ rfl, by decide,
    by decide, ⟨direct_reset _ (by decide) _ rfl, by decide⟩, ⟨direct_reset _ (by decide) _ rfl, by decide⟩,
    ⟨direct_reset _ (by decide) _ rfl, by decide⟩⟩

theorem witness_i2c_write_completes :
    (let s := i2cBusyWith (.write 0 0xA0#8 true false) []
     0 < 8 ∧ s.i2c.tip = true ∧ s.i2c.pending = some (.write 0 0xA0#8 true false)) ∧
    (let s := i2cBusyWith (.write 7 0x33#8 false true) []
     7 < 8 ∧ s.i2c.tip = true ∧ s.i2c.pending = some (.write 7 0x33#8 false true) ∧ s.i2c.busy[7]? = some false) ∧
    (let s := { i2cBusyWith (.write 7 0x33#8 false true) [] with
        i2c := { (i2cBusyWith (.write 7 0x33#8 false true) []).i2c with busy := Vector.replicate 8 true } }
     s.i2c.tip = true ∧ s.i2c.pending = some (.write 7 0x33#8 false true) ∧ s.i2c.busy[7]? = some true) := by decide

theorem witness_i2c_read_and_stop_complete :
    (let s := i2cBusyWith (.read 7 true true true) []
     7 < 8 ∧ s.i2c.tip = true ∧ s.i2c.pending = some (.read 7 true true true)) ∧
    (let s := i2cBusyWith (.read 0 false false false) []
     0 < 8 ∧ s.i2c.tip = true ∧ s.i2c.pending = some (.read 0 false false false) ∧ s.i2c.busy[0]? = some false) ∧
    (let s := i2cBusyWith (.stop 1) []
     s.i2c.tip = true ∧ s.i2c.pending = some (.stop 1)) := by decide

theorem witness_i2c_frequency_tight :
    bus2core 25000000 125000000 = some 0 ∧ bus2core 382 125000000 = some 65444 := by decide

theorem witness_bpi_command_write :
    (let s := bpiAt 0#24 0 (List.replicate 7 0#32) [] []
     Direct (.bpiCmd 0xFFFFFFFF#32) s ∧ s.bpi.cmdq.length < s.cfg.bpiCmdFifoDepth) ∧
    (let s := { hostAt [encode (.bpiCmd 1#32)] 0 0#32 with
        bpi := { State.reset.bpi with cmdq := List.replicate 8 0#32 } }
     s.cfg.regOrder = .inOrder ∧ s.cfg.bpiCmdFifoDepth ≤ s.bpi.cmdq.length ∧ s.host.mode = .program ∧
        fetchWord s = some (encode (.bpiCmd 1#32))) ∧
    (postedFull.cfg.regOrder = .postedUntilBarrier ∧ postedFull.cfg.bpiCmdFifoDepth ≤ postedFull.bpi.cmdq.length ∧
      postedFull.host.mode = .program ∧ fetchWord postedFull = some (encode (.bpiCmd 0x01000000#32))) :=
  ⟨⟨direct_reset _ (by decide) _ rfl, by decide⟩, by decide, by decide⟩

theorem witness_bpi_reads :
    (Direct .bpiRdata (r0 []) ∧ (r0 []).bpi.rdq = []) ∧
    (Direct .bpiRdata (bpiAt 0#24 0 [] [1#16] []) ∧ (bpiAt 0#24 0 [] [1#16] []).bpi.rdq = [1#16]) ∧
    (Direct .bpiRbank (r0 []) ∧ (r0 []).cfg.bpiBankVerify = false) ∧ Direct (.bpiWbank 0xFF#8) (r0 []) :=
  ⟨⟨direct_reset _ (by decide) _ rfl, by decide⟩, ⟨direct_reset _ (by decide) _ rfl, by decide⟩,
    ⟨direct_reset _ (by decide) _ rfl, by decide⟩, direct_reset _ (by decide) _ rfl⟩

theorem witness_bpi_bank :
    (let s := { r0 [] with cfg := { Config.vectors with bpiBankVerify := true } }
     accessFault s.cfg .bpiRbank = none ∧ s.cfg.regOrder = .inOrder ∧ s.cfg.bpiBankVerify = true) ∧
    (let s := { r0 [] with cpld := ⟨3#8, true, 0#8, true⟩ }
     s.cpld.bankRegKnown = true ∧ s.cfg.bpiCpldReliable = false) ∧
    (let s := { r0 [] with cpld := ⟨3#8, true, 0#8, true⟩, cfg := { Config.vectors with bpiCpldReliable := true } }
     s.cpld.bankRegKnown = true ∧ s.cfg.bpiCpldReliable = true) := by decide

/-- The busy bit drawn 1 at reset, and no bank write. -/
def cpldBusyAtReset (reliable : Bool) : State :=
  State.resetWith { Config.vectors with bpiCpldReliable := reliable } { ResetDraws.named with cpldBusy := true }

theorem witness_bpi_bank_unwritten :
    (enabled .cpld (cpldBusyAtReset true) = true ∧ (cpldBusyAtReset true).cpld.bankRegKnown = false ∧
      (cpldBusyAtReset true).cfg.bpiCpldReliable = true) ∧
    (enabled .cpld (cpldBusyAtReset false) = true ∧ (cpldBusyAtReset false).cpld.bankRegKnown = false ∧
      (cpldBusyAtReset false).cfg.bpiCpldReliable = false) := by decide

/-- The engine between two commands, at this one. -/
theorem engineAt_head (cmd : RegVal) (a : BitVec 24) (p : Nat) (ws : List Half) (l : List RegVal) :
    EngineAt cmd [] (bpiAt a p [cmd] ws l).bpi := ⟨rfl, rfl, rfl⟩

theorem witness_engine_refusals :
    EngineAt 0x60000000#32 [] (bpiAt 0#24 0 [0x60000000#32] [] []).bpi ∧ Refused Config.vectors 0x60000000#32 ∧
    ¬Refused Config.vectors 0#32 ∧
    (¬Contradictory 0x04010000#32 ∧ OutsideBank { Config.vectors with bpiAddressMask := 0xFFFF#24 } 0x04010000#32) ∧
    (¬Contradictory 0x40000100#32 ∧ ¬OutsideBank { Config.vectors with bpiWordBits := 8 } 0x40000100#32 ∧
      TooWide { Config.vectors with bpiWordBits := 8 } 0x40000100#32) := by
  simp only [Refused, Contradictory, OutsideBank, TooWide]
  exact ⟨engineAt_head .., by decide, by decide, ⟨by decide, by decide⟩, by decide, by decide, by decide⟩

theorem witness_engine_select :
    (let s := (bpiAt 0#24 0 [0x05001000#32] [] [])
     EngineAt 0x05001000#32 [] s.bpi ∧ ¬Refused s.cfg 0x05001000#32) ∧
    (0x05001000#32 : RegVal).getLsbD 27 = false ∧ (0x05001000#32 : RegVal).getLsbD 28 = false ∧
    (0x05001000#32 : RegVal).getLsbD 29 = false ∧ (0x05001000#32 : RegVal).getLsbD 30 = false := by
  refine ⟨⟨engineAt_head .., ?_⟩, by decide⟩
  simp only [Refused, Contradictory, OutsideBank, TooWide]
  decide

/-- The engine with nothing loaded and one command. -/
def bpiCold (cmd : RegVal) : State := { r0 [] with bpi := { (r0 []).bpi with cmdq := [cmd] } }

theorem witness_engine_reads :
    (let s := bpiAt 0x1000#24 1 [0xA0000000#32] [] []
     EngineAt 0xA0000000#32 [] s.bpi ∧ ¬Refused s.cfg 0xA0000000#32 ∧ (0xA0000000#32 : RegVal).getLsbD 28 = false ∧
      (0xA0000000#32 : RegVal).getLsbD 29 = true ∧ s.bpi.addrKnown = true ∧ s.bpi.csKnown = true) ∧
    (let s := bpiCold 0x21000000#32
     EngineAt 0x21000000#32 [] s.bpi ∧ ¬Refused s.cfg 0x21000000#32 ∧ (0x21000000#32 : RegVal).getLsbD 28 = false ∧
      (0x21000000#32 : RegVal).getLsbD 29 = true ∧ s.bpi.addrKnown = false ∧ (0x21000000#32 : RegVal).getLsbD 26 = false) := by
  refine ⟨⟨engineAt_head .., ?_⟩, ⟨⟨rfl, rfl, rfl⟩, ?_⟩⟩ <;> · simp only [Refused, Contradictory, OutsideBank, TooWide]; decide

theorem witness_engine_burst :
    (let s := bpiAt 0x1002#24 3 [0xB000FFFF#32] [] []
     EngineAt 0xB000FFFF#32 [] s.bpi ∧ ¬Refused s.cfg 0xB000FFFF#32 ∧ (0xB000FFFF#32 : RegVal).getLsbD 28 = true ∧
      s.bpi.addrKnown = true ∧ s.bpi.csKnown = true ∧ s.bpi.primed = 3) ∧
    (let s := bpiAt 0x1002#24 2 [0xB0000000#32] [] []
     EngineAt 0xB0000000#32 [] s.bpi ∧ ¬Refused s.cfg 0xB0000000#32 ∧ s.bpi.addrKnown = true ∧ s.bpi.csKnown = true ∧
      s.bpi.primed ≠ 3) ∧
    (let s := bpiCold 0xB0000000#32
     EngineAt 0xB0000000#32 [] s.bpi ∧ ¬Refused s.cfg 0xB0000000#32 ∧ s.bpi.addrKnown = false) := by
  refine ⟨⟨engineAt_head .., ?_⟩, ⟨engineAt_head .., ?_⟩, ⟨⟨rfl, rfl, rfl⟩, ?_⟩⟩ <;>
    · simp only [Refused, Contradictory, OutsideBank, TooWide]; decide

theorem witness_engine_burst_goes_on :
    let s := { bpiAt 0x1002#24 3 [0xB0000003#32] [] [] with
      bpi := { (bpiAt 0x1002#24 3 [0xB0000003#32] [] []).bpi with burstLeft := 65536 } }
    s.bpi.cmdq = [0xB0000003#32] ∧ s.bpi.waiting = false ∧ s.bpi.csKnown = true ∧ s.bpi.burstLeft = 65535 + 1 := by decide

theorem witness_engine_status_wait :
    (let s := bpiAt 0#24 0 [0x08000000#32] [] []
     EngineAt 0x08000000#32 [] s.bpi ∧ ¬Refused s.cfg 0x08000000#32 ∧ (0x08000000#32 : RegVal).getLsbD 27 = true ∧
      s.bpi.csKnown = true) ∧
    (let s := bpiCold 0x08000000#32
     EngineAt 0x08000000#32 [] s.bpi ∧ s.bpi.csKnown = false ∧ (0x08000000#32 : RegVal).getLsbD 24 = false) ∧
    (let s := { bpiAt 0#24 0 [0x08000000#32] [] [] with
        bpi := { (bpiAt 0#24 0 [0x08000000#32] [] []).bpi with waiting := true } }
     s.bpi.cmdq = [0x08000000#32] ∧ s.bpi.waiting = true ∧ s.bpi.csKnown = true) := by
  refine ⟨⟨engineAt_head .., ?_⟩, ⟨⟨rfl, rfl, rfl⟩, by decide⟩, by decide⟩
  simp only [Refused, Contradictory, OutsideBank, TooWide]
  decide

theorem witness_engine_writes :
    (let s := bpiAt 0x20#24 0 [0x4000FFFF#32] [] []
     EngineAt 0x4000FFFF#32 [] s.bpi ∧ ¬Refused s.cfg 0x4000FFFF#32 ∧ (0x4000FFFF#32 : RegVal).getLsbD 30 = true ∧
      s.bpi.addrKnown = true ∧ s.bpi.csKnown = true) ∧
    (let s := bpiCold 0xC0000001#32
     EngineAt 0xC0000001#32 [] s.bpi ∧ ¬Refused s.cfg 0xC0000001#32 ∧ (0xC0000001#32 : RegVal).getLsbD 30 = true ∧
      s.bpi.addrKnown = false) := by
  refine ⟨⟨engineAt_head .., ?_⟩, ⟨⟨rfl, rfl, rfl⟩, ?_⟩⟩ <;> · simp only [Refused, Contradictory, OutsideBank, TooWide]; decide

theorem witness_engine_back_pressure :
    (let s := bpiAt 0x20#24 0 [0x20000000#32] (List.replicate 8 1#16) []
     okHas (bpiStep s) (fun t => t.bpi.rdq != s.bpi.rdq) = true ∧ s.cfg.bpiReadFifoDepth ≤ s.bpi.rdq.length ∧
      s.bpi.cmdq ≠ [] ∧ s.bpi.rdq = 1#16 :: List.replicate 7 1#16 ∧ s.bpi.rdq.length ≤ s.cfg.bpiReadFifoDepth) := by decide

/-- The engine selected, with the commands of a read of `l` words at `0x1000` to run. -/
def readAt (l : Nat) : State :=
  bpiAt 0#24 0 (loadAddrCmd 0x1000#24 :: (readCommands Config.vectors l ++ [])) [] []

theorem witness_read_commands :
    (∀ l ∈ [1, 4, 5, 65539], 1 ≤ l ∧ l < 65540) ∧
    (let s := readAt 5
     s.cfg.bpiReadCommand = 0x20000000#32 ∧ s.cfg.bpiReadIncCommand = 0xA0000000#32 ∧
      s.cfg.bpiReadBurstIncCommand = 0xB0000000#32 ∧ 0x1000#24 &&& ~~~s.cfg.bpiAddressMask = 0 ∧ s.bpi.csKnown = true ∧
      s.bpi.cs = true ∧ s.bpi.waiting = false ∧ s.bpi.burstLeft = 0 ∧
      s.bpi.cmdq = loadAddrCmd 0x1000#24 :: (readCommands s.cfg 5 ++ []) ∧
      s.bpi.rdq.length + 5 ≤ s.cfg.bpiReadFifoDepth) := by decide

theorem witness_plain_writes :
    Direct (.spi2Wdata 0xFFFFFFFF#32) State.reset ∧ Direct (.spidWfsel 15#4) State.reset ∧
    (Direct (.jtagWpresc 0xFFFF#16) State.reset ∧ State.reset.jtag.busy = false) ∧
    (let s := jtagWith ⟨3, 1#16, 0#16⟩ .runTestIdle []
     Direct (.jtagWpresc 2#16) s ∧ s.jtag.busy = true) ∧
    (nextHas (exec (.jtagWpresc 3#16) State.reset) (fun t => t.testClock.isSome) = true ∧
      State.reset.cfg.jtagPrescalerBits ≤ 16) :=
  ⟨direct_reset _ (by decide) _ rfl, direct_reset _ (by decide) _ rfl, ⟨direct_reset _ (by decide) _ rfl, by decide⟩,
    ⟨direct_reset _ (by decide) _ rfl, by decide⟩, by decide⟩

theorem witness_spi2_reads :
    (Direct .spi2Rctrl State.reset ∧ State.reset.spi2.ctrlKnown = false) ∧
    (let s := { r0 [] with spi2 := { (r0 []).spi2 with ctrlKnown := true } }
     Direct .spi2Rctrl s ∧ s.spi2.ctrlKnown = true) ∧
    (Direct .spi2Rdata State.reset ∧ State.reset.spi2.rdq = []) ∧
    (let s := { r0 [] with spi2 := { (r0 []).spi2 with rdq := [5#32] } }
     Direct .spi2Rdata s ∧ s.spi2.rdq = [5#32]) :=
  ⟨⟨direct_reset _ (by decide) _ rfl, by decide⟩, ⟨direct_reset _ (by decide) _ rfl, by decide⟩,
    ⟨direct_reset _ (by decide) _ rfl, by decide⟩, ⟨direct_reset _ (by decide) _ rfl, by decide⟩⟩

theorem witness_spi2_control_issue : Direct (.spi2Wctrl ⟨true, true, true, 3#2, true, 15#4⟩) State.reset :=
  direct_reset _ (by decide) _ rfl

/-- An SPI-v2 unit with one queued control write. -/
def spi2With (a : Spi2Access) : State := { r0 [] with spi2 := { (r0 []).spi2 with accq := [a] } }

theorem witness_spi2_accesses :
    (let a : Spi2Access := ⟨⟨true, false, false, 0#2, false, 0#4⟩, 0#32, false⟩
     (spi2With a).spi2.accq = [a] ∧ a.ctl.valid = false) ∧
    (let a : Spi2Access := ⟨⟨true, false, true, 3#2, false, 0#4⟩, 0#32, false⟩
     (spi2With a).spi2.accq = [a] ∧ a.ctl.valid = true ∧ a.ctl.rw = false ∧ a.txdKnown = false) ∧
    (let a : Spi2Access := ⟨⟨true, false, true, 3#2, false, 0#4⟩, 6#32, true⟩
     (spi2With a).spi2.accq = [a] ∧ a.ctl.valid = true ∧ a.ctl.rw = false ∧ a.txdKnown = true) ∧
    (let a : Spi2Access := ⟨⟨true, true, true, 0#2, true, 15#4⟩, 6#32, true⟩
     (spi2With a).spi2.accq = [a] ∧ a.ctl.valid = true ∧ a.ctl.rw = true) ∧
    (let a : Spi2Access := ⟨⟨true, true, true, 1#2, false, 4#4⟩, 6#32, true⟩
     let s := { spi2With a with cfg := { Config.vectors with spi2DevBits := 2 } }
     s.spi2.accq = [a] ∧ a.ctl.valid = true ∧ a.ctl.rw = true ∧ ¬a.ctl.dev.toNat < 2 ^ s.cfg.spi2DevBits) := by decide

theorem witness_spid :
    Direct (.spidWctrl ⟨true, true, 0#4, 1#4⟩) spidLow ∧ Direct .spidRin spidLow ∧
    (spidLow.spid.ctrlKnown = true ∧ spidLow.spid.ctrl.sck = false ∧ spidLow.spid.ctrl.oe.getLsbD 0 = true) ∧
    (Direct .spidRin State.reset ∧ State.reset.spid.fselKnown = false) :=
  ⟨direct_reset _ (by decide) _ rfl, direct_reset _ (by decide) _ rfl, by decide, direct_reset _ (by decide) _ rfl, by decide⟩

theorem witness_jtag_shift :
    (Direct (.jtagShift 16 1#16 0#16) State.reset ∧ 1 ≤ 16 ∧ State.reset.jtag.busy = false) ∧
    (let s := jtagWith ⟨3, 1#16, 0#16⟩ .runTestIdle []
     Direct (.jtagShift 1 0#16 0#16) s ∧ s.jtag.busy = true) :=
  ⟨⟨direct_reset _ (by decide) _ rfl, by decide⟩, ⟨direct_reset _ (by decide) _ rfl, by decide⟩⟩

theorem witness_jtag_reads :
    (Direct .jtagRtdo State.reset ∧ State.reset.jtag.tdoKnown = false ∧ Direct .jtagRstat State.reset) ∧
    (let s := { r0 [] with jtag := { (r0 []).jtag with tdo := 5#16, tdoKnown := true } }
     Direct .jtagRtdo s ∧ s.jtag.tdoKnown = true) :=
  ⟨⟨direct_reset _ (by decide) _ rfl, by decide, direct_reset _ (by decide) _ rfl⟩,
    ⟨direct_reset _ (by decide) _ rfl, by decide⟩⟩

theorem witness_jtag_frame :
    let s := jtagWith ⟨16, 1#16, 0#16⟩ .runTestIdle []
    s.jtag.busy = true ∧ s.jtag.pending.count ≤ 16 := by decide

theorem witness_tap_tables : Config.modelTmsTable.length = 30 ∧ JtagState.covers .exit .exit1Ir = true := by decide

/-- A program of a read and a poll of it, the host at the poll. -/
def pollAt (w : MceWord) (last : RegVal) : State := hostAt [w, 0xF03F000000000000#64] 1 last

theorem witness_host_poll :
    (0 = (hostAt [0xF000000000000000#64] 0 0#32).host.pc ∧
      (pollAt 0x0400000000000000#64 0#32).host.program[0]? = some 0x0400000000000000#64 ∧
      decode 0x0400000000000000#64 = some (.i2cWctrl 0 false) ∧ (Instr.i2cWctrl 0 false).isRead = false) ∧
    (let s := pollAt 0x4300000000000000#64 0x80000000#32
     s.host.pc ≠ 0 ∧ s.host.program[s.host.pc - 1]? = some 0x4300000000000000#64 ∧
      decode 0x4300000000000000#64 = some .jtagRstat ∧ Instr.jtagRstat.isRead = true ∧ s.cfg.regOrder = .inOrder ∧
      s.host.lastKnown = true ∧ s.host.last.getLsbD 31 = true ∧ s.host.last.getLsbD 0 ≠ true) ∧
    (let s := pollAt 0x2100000000000000#64 0#32
     s.host.pc ≠ 0 ∧ s.host.program[s.host.pc - 1]? = some 0x2100000000000000#64 ∧
      decode 0x2100000000000000#64 = some .spi2Rctrl ∧ Instr.spi2Rctrl.isRead = true ∧ s.host.lastKnown = true ∧
      s.host.last.getLsbD 16 ≠ true) := by decide

theorem witness_host_poll_unwritten :
    let s := { pollAt 0x4300000000000000#64 0#32 with host := { (pollAt 0x4300000000000000#64 0#32).host with lastKnown := false } }
    s.host.pc ≠ 0 ∧ s.host.program[s.host.pc - 1]? = some 0x4300000000000000#64 ∧ s.cfg.regOrder = .inOrder ∧
      s.host.lastKnown = false := by decide

theorem witness_host_check :
    6 < 7 ∧ [Status.ok, .invalidArgument, .invalidOperation, .invalidState, .deviceIO, .timeout, .noAck][6]? = some .noAck ∧
    State.reset.cfg.regOrder = .inOrder ∧ State.reset.host.lastKnown = false ∧
    (let s := hostAt [0#64, 0#64] 0 4#32
     s.cfg.regOrder = .inOrder ∧ s.host.lastKnown = true ∧ s.host.last.getLsbD 2 = true ∧ s.host.last.getLsbD 3 ≠ true) := by
  decide

theorem witness_host_fences :
    State.reset.cfg.regOrder = .inOrder ∧ postedOne.cfg.regOrder = .postedUntilBarrier ∧ postedOne.path.posted ≠ [] ∧
    (postedMode ⟨[], 1, none, none⟩).path.posted = [] ∧ Instr.jtagRstat.isRead = true := by decide

/-- The invariant of a state with a word to run. -/
theorem witness_inv :
    Inv (hostAt [0xF300000000000000#64, 0xF300000000000000#64] 0 0#32) :=
  ⟨⟨by decide, by decide, by decide⟩,
    ⟨by decide, by decide, by decide, by decide, by decide, by decide, by decide, by decide, by decide⟩, by decide, by decide,
    ⟨by decide, List.Pairwise.nil, fun _ h => (List.not_mem_nil h).elim, fun _ h => (List.not_mem_nil h).elim⟩,
    ⟨by decide, by decide⟩, by decide, fun _ _ _ h => by simp [hostAt, State.reset, State.resetWith, Config.vectors] at h⟩

theorem witness_step_next :
    nextHas (step { hostAt [0xF300000000000000#64, 0xF300000000000000#64] 0 0#32 with sched := ⟨[.host], 0⟩ })
      (fun t => t.host.pc == 1) = true := by decide

theorem witness_units_write :
    nextHas (exec (.bpiCmd 0#32) State.reset) (fun t => t.bpi.cmdq == [0#32]) = true ∧
    nextHas (agentStep .i2c (i2cBusyWith (.stop 0) [])) (fun t => !t.i2c.tip) = true ∧
    nextHas (agentStep .bpi (bpiAt 0#24 0 [0#32] [] [])) (fun t => t.bpi.cmdq == []) = true ∧
    nextHas (agentStep .cpld { r0 [1#32] with cpld := ⟨2#8, true, 0#8, true⟩ }) (fun t => t.cpld.bankEff == 2#8) = true ∧
    nextHas (agentStep .spi2 (spi2With ⟨⟨true, false, false, 0#2, false, 0#4⟩, 0#32, false⟩)) (fun t => t.spi2.accq == []) = true ∧
    nextHas (agentStep .jtag (jtagWith ⟨1, 1#16, 0#16⟩ .runTestIdle [0#32])) (fun t => t.tap == .selectDr) = true := by decide

/-- Two more lock domains, whose host agents have a program each. -/
def domains : State :=
  let c := { Config.vectors with ownUnits := [.i2c], otherDomains := [[.bpi, .spi2], [.spid, .jtag]] }
  ((State.resetWith c .named).onDomain 0 (fun s => s.withProgram [encode (.bpiCmd 0#32)])).onDomain 1
    (fun s => s.withProgram [encode (.jtagWpresc 3#16), encode (.bpiCmd 0#32)])

theorem witness_units_write_foreign :
    enabled (.foreign 1) domains = true ∧ domains.cfg.otherDomains[1]? = some [.spid, .jtag] ∧
    nextHas (agentStep (.foreign 1) domains) (fun t => t.jtag.presc == 3#16) = true ∧ 0 ≠ 1 ∧ UnitId.i2c ∉ [UnitId.spid, .jtag] ∧
    UnitId.bpi ∉ [UnitId.spid, .jtag] ∧ UnitId.spi2 ∉ [UnitId.spid, .jtag] ∧ UnitId.spid ∉ [UnitId.bpi, .spi2] ∧
    UnitId.jtag ∉ [UnitId.bpi, .spi2] ∧ enabled (.foreign 0) domains = true ∧
    nextHas (agentStep (.foreign 0) domains) (fun t => t.bpi.cmdq == [0#32]) = true := by decide

theorem witness_units_read : (Instr.spi2Wdata 5#32).unit = .spi2 ∧ UnitId.spi2 ≠ .i2c ∧ UnitId.spi2 ≠ .bpi ∧
    UnitId.spi2 ≠ .spid ∧ UnitId.spi2 ≠ .jtag ∧ Instr.jtagRstat.unit ≠ .spi2 := by decide

theorem witness_read_side_effects :
    Instr.bpiRdata.isRead = true ∧ accepts .bpiRdata (bpiAt 0#24 0 [] [1#16, 2#16] [0#32]) = true ∧
    nextHas (exec .bpiRdata (bpiAt 0#24 0 [] [1#16, 2#16] [0#32])) (fun t => t.bpi.rdq == [2#16]) = true := by decide

theorem witness_driver_op :
    (let s := drvAt [.op (.bpiCmd 0#32), .ret]
     (Instr.bpiCmd 0#32).isHost = false ∧ s.host.drv.stack = .op (.bpiCmd 0#32) :: [.ret] ∧ s.host.drv.status = .ok ∧
      accepts (.bpiCmd 0#32) s = true) ∧
    (let s := { drvAt [.op (.bpiCmd 0#32), .ret] with bpi := { State.reset.bpi with cmdq := List.replicate 8 0#32 } }
     s.host.drv.stack = .op (.bpiCmd 0#32) :: [.ret] ∧ s.host.drv.status = .ok ∧ accepts (.bpiCmd 0#32) s = false) := by
  decide

/-- A burst call at its entry. -/
def burstAt (hdr : BurstHeader) : State := drvAt [.run (.burstEntry .spi2 hdr [] none), .ret]

theorem witness_burst_refusals :
    ((burstAt ⟨0, 0, 1⟩).host.drv.stack = .run (.burstEntry .spi2 ⟨0, 0, 1⟩ [] none) :: [.ret] ∧
      (burstAt ⟨0, 0, 1⟩).host.drv.status = .ok ∧ ((burstAt ⟨0, 0, 1⟩).host.burst .spi2).isOpen = false) ∧
    (let s := (burstAt ⟨0, 0, 1⟩).setBurst .spi2 ⟨true, 0#32, false, false⟩
     s.host.drv.stack = .run (.burstEntry .spi2 ⟨0, 0, 1⟩ [] none) :: [.ret] ∧ s.host.drv.status = .ok ∧
      (s.host.burst .spi2).isOpen = true) ∧
    (3 < (4#32).toNat ∧ (0x800#32).getLsbD 11 = true ∧ 11 ∉ usedFlagBits Config.vectors.flagBits ∧
      6 ≤ (0xC000#32).toNat / 2 ^ Config.vectors.flagBits.jstateLo % 8 ∧ Controller.spi2.unit ∉ Config.vectors.commandUnits ∧
      (1#32).toNat < 2 ∧ ¬((2#32).toNat < 2)) := by decide

theorem witness_shot_partition :
    (1 ≤ 65539 ∧ 1 ≤ 1 ∧ 2 < shotCount 17 8 ∧ 2 + 1 = shotCount 17 8 ∧ 1 + 1 < shotCount 17 8 ∧
      shotSize 17 8 2 = 1) ∧
    (let s := { drvAt [] with host := { (drvAt []).host with drv := { (drvAt []).host.drv with
        ctl := .spi2, hdr := ⟨1, 0, 6⟩ } } }
     shotCount s.burstUnits (maxWriteShot s.cfg s.host.drv.ctl) = 2 ∧ 1 < 2 ∧ 2 ≤ 2 ∧
      (1 + 1) % (s.cfg.sizes s.host.drv.ctl.unit).writeQueue = 0) := by decide

theorem witness_abort_keeps_status : Status.noAck ≠ .ok ∧ Status.timeout ≠ .ok := by decide

/-- The activation of bank 0, at its first step. -/
def activateAt (b : Nat) : State := drvAt [.run (.i2cActivate b), .ret]

theorem witness_activation :
    (activateAt 1).host.drv.stack = .run (.i2cActivate 1) :: [.ret] ∧ (activateAt 1).host.drv.status = .ok ∧
    (activateAt 1).cfg.regOrder = .inOrder ∧ (∀ i : Instr, i.bank? = some 1 → accessFault (activateAt 1).cfg i = none) ∧
    (activateAt 1).host.activeBus ≠ some 1 ∧
    bus2core (bankFrequency (activateAt 1).cfg 1) (activateAt 1).cfg.i2cFwClock = some 249 := by
  refine ⟨by decide, by decide, by decide, ?_, by decide, by decide⟩
  intro i h
  cases i <;> cases h <;> first
    | rfl
    | exact accessFault_congr _ (j := .i2cWpreLo 1 0) rfl rfl rfl rfl
    | exact accessFault_congr _ (j := .i2cWpreHi 1 0) rfl rfl rfl rfl
    | exact accessFault_congr _ (j := .i2cWctrl 1 false) rfl rfl rfl rfl
    | exact accessFault_congr _ (j := .i2cWrite 1 0 false false) rfl rfl rfl rfl
    | exact accessFault_congr _ (j := .i2cRead 1 false false false) rfl rfl rfl rfl

theorem witness_activation_shortcuts :
    ((activateAt 2).host.drv.stack = .run (.i2cActivate 2) :: [.ret] ∧ (activateAt 2).host.drv.status = .ok ∧
      (activateAt 2).cfg.i2cNumBanks ≤ 2) ∧
    (let s := (activateAt 1).setActive (some 1)
     s.host.drv.stack = .run (.i2cActivate 1) :: [.ret] ∧ s.host.drv.status = .ok ∧ 1 < s.cfg.i2cNumBanks ∧
      s.host.activeBus = some 1) := by decide

theorem witness_set_state :
    let s := drvAt [.run (.jtagSetState .shiftDr), .ret]
    s.host.drv.stack = .run (.jtagSetState .shiftDr) :: [.ret] ∧ s.host.drv.status = .ok ∧
    JtagState.shiftDr ≠ .invalid ∧ JtagState.shiftDr ≠ s.host.jtagState ∧ s.cfg.jtagTmsTable = Config.modelTmsTable ∧
    s.cfg.regOrder = .inOrder ∧ (∀ i : Instr, i.unit = .jtag → accessFault s.cfg i = none) ∧ s.jtag.busy = false ∧
    JtagState.covers s.host.jtagState s.tap = true := by
  refine ⟨by decide, by decide, by decide, by decide, rfl, by decide, ?_, by decide, by decide⟩
  intro i h
  cases i <;> cases h <;> first
    | rfl
    | exact accessFault_congr _ (j := .jtagShift 1 0 0) rfl rfl rfl rfl
    | exact accessFault_congr _ (j := .jtagWpresc 0) rfl rfl rfl rfl

theorem witness_prescaler_search :
    jtagPrescFor { Config.vectors with jtagPrescalerBits := 4 } 7812499 = 4 ∧ 0 < 4 ∧ 4 < 2 ^ 4 - 1 := by decide

end Sys2Proof.Tests
end

section
/-! Proofs of the family 10_state.md: the two BPI reads, whose results are laid out by R40 and R43. -/

namespace Sys2Proof.Machine

/-! ## The layout of the results -/

/-- R40 lays out bits 18 to 0 only. -/
theorem bpiDataValue_lt (w : Half) (e f r : Bool) : (bpiDataValue w e f r).toNat < 2 ^ 19 := by
  refine Nat.lt_pow_two_of_testBit _ fun j hj => ?_
  have hw : w.getLsbD j = false := BitVec.getLsbD_of_ge w j (by omega)
  have hj : j ≠ 16 ∧ j ≠ 17 ∧ j ≠ 18 := by omega
  simp [BitVec.testBit_toNat, bpiDataValue_getLsbD, hw, hj]

/-- The DATA field of R40 is the word. -/
theorem bpiDataValue_data (w : Half) (e f r : Bool) : (bpiDataValue w e f r).toNat % 2 ^ 16 = w.toNat := by
  have hlow : (bpiDataValue w e f r).setWidth 16 = w := by
    ext j hj
    have hflags : j ≠ 16 ∧ j ≠ 17 ∧ j ≠ 18 ∧ j < 32 := by omega
    simp [← BitVec.getLsbD_eq_getElem, bpiDataValue_getLsbD, hj, hflags]
  rw [← BitVec.toNat_setWidth, hlow]

/-- The three flags of R40: the FIFO is empty, it is full, an error. -/
theorem bpiDataValue_flags (w : Half) (e f r : Bool) :
    (bpiDataValue w e f r).getLsbD 16 = e ∧ (bpiDataValue w e f r).getLsbD 17 = f ∧
      (bpiDataValue w e f r).getLsbD 18 = r := by
  refine ⟨?_, ?_, ?_⟩ <;> rw [bpiDataValue_getLsbD, BitVec.getLsbD_of_ge w _ (by omega)] <;> simp

/-- The two fields of R43 do not overlap, so the value is their sum. -/
theorem bpiBankValue_eq_ofNat (busy : Bool) (k : Byte) :
    bpiBankValue busy k = BitVec.ofNat 32 (busy.toNat + 256 * k.toNat) := by
  have hb : busy.toNat < 2 ^ 8 := by have := Bool.toNat_le busy; omega
  have hk : 2 ^ 8 * k.toNat < 2 ^ 32 := by have := k.isLt; omega
  have hsum := Nat.two_pow_add_eq_or_of_lt hb k.toNat
  apply BitVec.eq_of_toNat_eq
  calc (bpiBankValue busy k).toNat
      = busy.toNat ||| 2 ^ 8 * k.toNat := by
        rw [bpiBankValue, BitVec.toNat_or, bitAt_toNat busy (by omega), BitVec.toNat_shiftLeft,
          BitVec.toNat_setWidth_of_le (by omega), Nat.shiftLeft_eq, Nat.mul_comm k.toNat, Nat.mod_eq_of_lt hk, pow_zero,
          mul_one]
    _ = busy.toNat + 256 * k.toNat := by rw [Nat.or_comm, ← hsum]; omega
    _ = (BitVec.ofNat 32 (busy.toNat + 256 * k.toNat)).toNat := by
        rw [BitVec.toNat_ofNat, Nat.mod_eq_of_lt (by omega)]

/-! ## The effects of the reads, by the branches of R232 and R231 -/

theorem readEffect_bpiRdata_empty {s : State} (h : s.bpi.rdq = []) :
    readEffect .bpiRdata s =
      .ok (bpiDataValue 0 true false ((s.nextAnswer .fifoError).getLsbD 0), s.answered .fifoError) := by
  simp [readEffect, readBpiData, h]

theorem readEffect_bpiRdata_word {s : State} {w : Half} {rest : List Half} (h : s.bpi.rdq = w :: rest) :
    readEffect .bpiRdata s =
      .ok (bpiDataValue w false (decide ((w :: rest).length = s.cfg.bpiReadFifoDepth))
          ((s.nextAnswer .fifoError).getLsbD 0),
        { s.answered .fifoError with bpi := { s.bpi with rdq := rest } }) := by
  simp [readEffect, readBpiData, h]

theorem readEffect_bpiRbank_verified {s : State} (h : s.cfg.bpiBankVerify = true) :
    readEffect .bpiRbank s = .ok (bpiBankValue s.cpld.busy s.cpld.bankEff, s) := by
  simp [readEffect, readBpiBank, h]

theorem readEffect_bpiRbank_drawn {s : State} (h : s.cfg.bpiBankVerify = false) :
    readEffect .bpiRbank s =
      .ok (bpiBankValue s.cpld.busy ((s.nextAnswer .bankField).setWidth 8), s.answered .bankField) := by
  simp [readEffect, readBpiBank, h]

/-! ## The words -/

/-- Settles O22: the result is `bpiDataValue` in both branches of R232, and R40's layout gives its fields. -/
theorem bpiDataRead : Obligations.BpiDataRead := by
  unfold Obligations.BpiDataRead
  refine ⟨rfl, fun s hd => ?_⟩
  cases hq : s.bpi.rdq with
  | nil =>
    obtain ⟨hempty, hfull, herror⟩ := bpiDataValue_flags 0 true false ((s.nextAnswer .fifoError).getLsbD 0)
    exact ⟨_, bpiDataValue_lt .., herror, exec_read_direct hd rfl (readEffect_bpiRdata_empty hq),
      bpiDataValue_data .., hempty, hfull⟩
  | cons w rest =>
    obtain ⟨hempty, hfull, herror⟩ := bpiDataValue_flags w false
      (decide ((w :: rest).length = s.cfg.bpiReadFifoDepth)) ((s.nextAnswer .fifoError).getLsbD 0)
    exact ⟨_, bpiDataValue_lt .., herror, exec_read_direct hd rfl (readEffect_bpiRdata_word hq),
      bpiDataValue_data .., hempty, hfull⟩

/-- Settles O24: both branches of R231 answer `bpiBankValue`, whose BANK field is the CPLD's bank or the low byte of an
answer. -/
theorem bpiBankRead : Obligations.BpiBankRead := by
  unfold Obligations.BpiBankRead
  refine ⟨rfl, fun s hd => ⟨fun hv => ?_, fun hv => ?_⟩⟩
  · rw [exec_read_direct hd rfl (readEffect_bpiRbank_verified hv), bpiBankValue_eq_ofNat]
  · rw [exec_read_direct hd rfl (readEffect_bpiRbank_drawn hv), bpiBankValue_eq_ofNat, BitVec.toNat_setWidth]

end Sys2Proof.Machine
end

section
/-! Proofs of the family 42_i2c.md: the registers of the I2C core, its transfers and their completions, and the prescaler
arithmetic. -/

namespace Sys2Proof.Machine

/-! ## The bus states and the status -/

theorem I2cUnit.enabled_iff (u : I2cUnit) : u.enabled = true ↔ u.enKnown = true ∧ u.en = true := by
  simp [I2cUnit.enabled]

theorem I2cUnit.enabled_eta {u : I2cUnit} (hk : u.enKnown = true) (he : u.en = true) :
    { u with en := true, enKnown := true } = u := by
  cases u
  simp only at hk he
  rw [hk, he]

theorem I2cUnit.busyAt_iff (u : I2cUnit) (b : Nat) : u.busyAt b = true ↔ u.busy[b]? = some true := by
  unfold I2cUnit.busyAt
  cases u.busy[b]? <;> simp

theorem I2cUnit.some_busyAt {b : Nat} (u : I2cUnit) (hb : b < 8) : some (u.busyAt b) = u.busy[b]? := by
  simp [I2cUnit.busyAt, hb]

theorem bitAt_zero (b : Bool) : bitAt b 0 = if b then 1#32 else 0#32 := by
  cases b <;> rfl

theorem i2cStatus_getLsbD (u : I2cUnit) (b j : Nat) :
    (i2cStatus u b).getLsbD j =
      ((decide (j = 0) && u.tip) || (decide (j = 1) && u.busyAt b) || (decide (j = 2) && u.rxack)) := by
  simp [i2cStatus, bitAt_getLsbD]

/-- The three fields of R31: TIP, BUSY of the bank, RXACK. -/
theorem i2cStatus_fields (u : I2cUnit) (b : Nat) :
    (i2cStatus u b).getLsbD 0 = u.tip ∧ (i2cStatus u b).getLsbD 1 = u.busyAt b ∧ (i2cStatus u b).getLsbD 2 = u.rxack := by
  refine ⟨?_, ?_, ?_⟩ <;> rw [i2cStatus_getLsbD] <;> simp

/-- R31 lays out bits 2 to 0 only. -/
theorem i2cStatus_lt (u : I2cUnit) (b : Nat) : (i2cStatus u b).toNat < 2 ^ 3 := by
  refine Nat.lt_pow_two_of_testBit _ fun j hj => ?_
  have hfields : j ≠ 0 ∧ j ≠ 1 ∧ j ≠ 2 := by omega
  simp [BitVec.testBit_toNat, i2cStatus_getLsbD, hfields]

/-- The bus states after a transfer on bus `b` that began and ended as asked (R171, R174): STOP has the last word. -/
def busAfter (sta sto : Bool) (b : Nat) (v : Vector Bool 8) : Vector Bool 8 :=
  if sto then v.setIfInBounds b false else if sta then v.setIfInBounds b true else v

theorem startIf_eq (sta : Bool) (b : Nat) (s : State) :
    startIf sta b s = { s with i2c := { s.i2c with busy := busAfter sta false b s.i2c.busy } } := by
  cases sta <;> rfl

theorem stopIf_eq (sto : Bool) (b : Nat) (s : State) :
    stopIf sto b s = { s with i2c := { s.i2c with busy := busAfter false sto b s.i2c.busy } } := by
  cases sto <;> rfl

theorem busAfter_start_stop (sta sto : Bool) (b : Nat) (v : Vector Bool 8) :
    busAfter false sto b (busAfter sta false b v) = busAfter sta sto b v := by
  cases sto <;> cases sta <;> simp [busAfter]

/-! ## The prescaler arithmetic -/

/-- The range test of R161 on `n - 1` is the same over the naturals as over the integers: both refuse `n = 0`. -/
theorem prescaler_int_eq_nat (n : Nat) :
    (if (n : Int) - 1 < 0 ∨ (0x10000 : Int) ≤ (n : Int) - 1 then none else some ((n : Int) - 1).toNat) =
      if n < 1 then none else if n - 1 < 0x10000 then some (n - 1) else none := by
  by_cases hlow : n < 1
  · rw [if_pos hlow, if_pos (by omega)]
  · rw [if_neg hlow]
    by_cases hhigh : n - 1 < 0x10000
    · have hnat : ((n : Int) - 1).toNat = n - 1 := by omega
      rw [if_pos hhigh, if_neg (by omega), hnat]
    · rw [if_neg hhigh, if_pos (by omega)]

/-! ## The words with one test -/

variable {i : Instr} {s t : State} {v : RegVal} {e : Fault} {k : Bool}

/-- A prescaler write (R164, R165), from the effect it has while the core is not enabled. -/
theorem exec_prescalerWrite {r : Nat} (hd : Direct i s) (hw : i.isWrite = true) (hr : hasRoom i s = true)
    (hf : writeEffect i s = if s.i2c.enabled then .error (.i2cPrescEn r) else .ok t) :
    if s.i2c.enKnown = true ∧ s.i2c.en = true then exec i s = .fault (.i2cPrescEn r)
    else exec i s = .next (afterWrite i t) := by
  simp only [I2cUnit.enabled_iff] at hf
  split_ifs at hf ⊢
  · exact exec_direct_fault hd hw hr hf
  · exact exec_direct hd hw hr hf

/-- A read of a field that is returned once it is known, and changes nothing (R166, R167, R169). -/
theorem exec_knownRead (hd : Direct i s) (hi : i.isRead = true)
    (hf : readEffect i s = if k then .ok (v, s) else .error e) :
    if k then exec i s = .next (afterReadOf i v s) else exec i s = .fault e := by
  split_ifs at hf ⊢
  · exact exec_read_direct hd hi hf
  · exact exec_read_fault hd hi hf

/-! ## The effects of `I2C.WCTRL`, by the branches of R168 -/

theorem writeEffect_i2cWctrl_again {b : Nat} (hk : s.i2c.enKnown = true) (he : s.i2c.en = true) :
    writeEffect (.i2cWctrl b true) s = .ok s := by
  simp [writeEffect, performI2cWctrl, I2cUnit.enabled, hk, he, State.setEnable, I2cUnit.enabled_eta hk he]

theorem writeEffect_i2cWctrl_enable {b : Nat} (h : ¬(s.i2c.enKnown = true ∧ s.i2c.en = true)) :
    writeEffect (.i2cWctrl b true) s = .ok (redrawBanks s.cfg.i2cNumBanks 0 (s.setEnable true)) := by
  rw [← I2cUnit.enabled_iff] at h
  simp [writeEffect, performI2cWctrl, h]

theorem writeEffect_i2cWctrl_disable {b : Nat} (h : s.i2c.tip = false) :
    writeEffect (.i2cWctrl b false) s = .ok (s.setEnable false) := by
  simp [writeEffect, performI2cWctrl, h]

theorem writeEffect_i2cWctrl_abandon {b : Nat} {op : I2cOp} (h : s.i2c.tip = true) (hp : s.i2c.pending = some op) :
    writeEffect (.i2cWctrl b false) s = .ok (redrawBusy op.bank (s.setEnable false).endTransfer) := by
  simp [writeEffect, performI2cWctrl, abandonTransfer, h, hp]

/-! ## The completion steps -/

theorem enabled_i2c {op : I2cOp} (ht : s.i2c.tip = true) (hp : s.i2c.pending = some op) : enabled .i2c s = true := by
  simp [enabled, i2cEnabled, ht, hp]

theorem agentStep_i2c_write {b : Nat} {d : Byte} {sta sto : Bool} (hp : s.i2c.pending = some (.write b d sta sto)) :
    agentStep .i2c s = .next (completeI2cWrite b d sta sto s) := by
  simp [agentStep, i2cStep, hp]

theorem agentStep_i2c_read {b : Nat} {sta sto nack : Bool} (hp : s.i2c.pending = some (.read b sta sto nack)) :
    agentStep .i2c s = .next (completeI2cRead b sta sto nack s) := by
  simp [agentStep, i2cStep, hp]

theorem agentStep_i2c_stop {b : Nat} (hp : s.i2c.pending = some (.stop b)) :
    agentStep .i2c s = .next (completeI2cStop b s) := by
  simp [agentStep, i2cStep, hp]

/-- A slave is addressed with START or on a held bus (R171, R174). -/
theorem addressed_iff (sta : Bool) (b : Nat) (u : I2cUnit) :
    (sta || u.busyAt b) = true ↔ sta = true ∨ u.busy[b]? = some true := by
  rw [Bool.or_eq_true, I2cUnit.busyAt_iff]

theorem completeI2cWrite_addressed {b : Nat} {d : Byte} {sta sto : Bool}
    (h : sta = true ∨ s.i2c.busy[b]? = some true) :
    completeI2cWrite b d sta sto s = { s.answered (.i2cAck b d) with
      i2c := { s.i2c with
        tip := false
        pending := none
        busy := busAfter sta sto b s.i2c.busy
        rxack := (s.nextAnswer (.i2cAck b d)).getLsbD 0 }
      history := (s.answered (.i2cAck b d)).history ++
        [.i2cWrite b sta d ((s.nextAnswer (.i2cAck b d)).getLsbD 0) sto] } := by
  have hack : (sta || s.i2c.busyAt b) = true := (addressed_iff ..).2 h
  rw [← busAfter_start_stop, completeI2cWrite, hack, startIf_eq, stopIf_eq]
  rfl

theorem completeI2cWrite_unaddressed {b : Nat} {d : Byte} {sta sto : Bool} (hsta : sta = false)
    (hb : s.i2c.busy[b]? = some false) :
    completeI2cWrite b d sta sto s = { s with
      i2c := { s.i2c with tip := false, pending := none, busy := busAfter sta sto b s.i2c.busy, rxack := true }
      history := s.history ++ [.i2cWrite b sta d true sto] } := by
  have hack : (sta || s.i2c.busyAt b) = false := by simp [hsta, I2cUnit.busyAt, hb]
  rw [← busAfter_start_stop, completeI2cWrite, hack, startIf_eq, stopIf_eq]
  rfl

/-- The question a read's byte answers (R174). -/
def readQuery (sta nack : Bool) (b : Nat) (u : I2cUnit) : Oracle :=
  if sta = true ∨ u.busy[b]? = some true then .i2cData b nack else .i2cUndriven b

theorem readByteOf_eq (sta nack : Bool) (b : Nat) (u : I2cUnit) (s : State) :
    readByteOf (sta || u.busyAt b) b nack s =
      ((s.nextAnswer (readQuery sta nack b u)).setWidth 8, s.answered (readQuery sta nack b u)) := by
  simp only [readByteOf, readQuery, addressed_iff]
  split_ifs <;> rfl

theorem completeI2cRead_eq (b : Nat) (sta sto nack : Bool) (s : State) :
    completeI2cRead b sta sto nack s = { s.answered (readQuery sta nack b s.i2c) with
      i2c := { s.i2c with
        tip := false
        pending := none
        rx := some ((s.nextAnswer (readQuery sta nack b s.i2c)).setWidth 8)
        busy := busAfter sta sto b s.i2c.busy }
      history := (s.answered (readQuery sta nack b s.i2c)).history ++
        [.i2cRead b sta ((s.nextAnswer (readQuery sta nack b s.i2c)).setWidth 8) nack sto] } := by
  rw [← busAfter_start_stop, completeI2cRead, readByteOf_eq, startIf_eq, stopIf_eq]
  rfl

end Sys2Proof.Machine
end

section
/-! The obligations of the family 42_i2c.md. -/

namespace Sys2Proof.Machine

/-- Settles O14: one effect lemma per branch of R168; the draws of an enable are those of `redrawBanks_spec` from bank 0. -/
theorem i2cEnableWrite : Obligations.I2cEnableWrite := by
  unfold Obligations.I2cEnableWrite
  refine fun b e s => ⟨rfl, fun hd => ⟨?again, ?enable, ?disable, ?abandon⟩, bankChecked rfl⟩
  case again =>
    rintro rfl hk he
    exact exec_direct hd rfl rfl (writeEffect_i2cWctrl_again hk he)
  case enable =>
    rintro rfl h
    obtain ⟨a, hstate, hanswers, hbusy⟩ := redrawBanks_spec s.cfg.i2cNumBanks 0 (s.setEnable true)
    simp only [Nat.zero_add, Nat.zero_le, true_and] at hstate hanswers hbusy
    refine ⟨(redrawBanks s.cfg.i2cNumBanks 0 (s.setEnable true)).i2c.busy, a, ?_, hanswers, hbusy⟩
    rw [exec_direct hd rfl rfl (writeEffect_i2cWctrl_enable h)]
    exact congrArg (Host.Outcome.next ∘ afterWrite (.i2cWctrl b true)) hstate
  case disable =>
    rintro rfl ht
    exact exec_direct hd rfl rfl (writeEffect_i2cWctrl_disable ht)
  case abandon =>
    rintro op rfl ht hp
    exact exec_direct hd rfl rfl (writeEffect_i2cWctrl_abandon ht hp)

/-- Settles O17: the acknowledge is drawn exactly when a slave is addressed. -/
theorem i2cWriteCompletes : Obligations.I2cWriteCompletes := by
  unfold Obligations.I2cWriteCompletes
  intro b d sta sto s _ ht hp
  refine ⟨enabled_i2c ht hp, fun h => ?_, fun hsta hb => ?_⟩
  · rw [agentStep_i2c_write hp, completeI2cWrite_addressed h]
    rfl
  · rw [agentStep_i2c_write hp, completeI2cWrite_unaddressed hsta hb]
    rfl

/-- Settles O18: a read asks `readQuery` and stores its answer; a stand-alone STOP draws nothing. -/
theorem i2cReadAndStopComplete : Obligations.I2cReadAndStopComplete := by
  unfold Obligations.I2cReadAndStopComplete
  refine ⟨fun b sta sto nack s _ ht hp => ⟨enabled_i2c ht hp, ?_⟩, fun b s ht hp => ⟨enabled_i2c ht hp, ?_⟩⟩
  · rw [agentStep_i2c_read hp, completeI2cRead_eq]
    rfl
  · rw [agentStep_i2c_stop hp]
    rfl

/-- Settles O19: the integer quotient is the natural one, and subtracting 1 from it leaves the naturals only when it is 0. -/
theorem i2cFrequency : Obligations.I2cFrequency := by
  unfold Obligations.I2cFrequency
  refine ⟨fun f clk => ?_, by decide⟩
  have hquot : (clk : Int) / (5 * f) = ((clk / (5 * f) : Nat) : Int) := by push_cast; rfl
  rw [bus2core, hquot]
  by_cases hf : f = 0
  · rw [if_pos hf, if_pos hf]
  · rw [if_neg hf, if_neg hf, prescaler_int_eq_nat]

/-- Settles O13: both writes have the one test of R164 and R165. -/
theorem i2cPrescalerWrites : Obligations.I2cPrescalerWrites := by
  unfold Obligations.I2cPrescalerWrites
  exact fun b v s => ⟨⟨rfl, rfl⟩, fun hd => exec_prescalerWrite hd rfl rfl rfl,
    fun hd => exec_prescalerWrite hd rfl rfl rfl, bankChecked rfl, bankChecked rfl⟩

/-- Settles O15: the three operations share the tests of `transferFault`; only the write also has an effect on `I.tx`. -/
theorem i2cTransferIssue : Obligations.I2cTransferIssue := by
  unfold Obligations.I2cTransferIssue
  refine fun b d sta sto nack s => ⟨rfl, rfl, rfl, startsTransfer rfl rfl ?_, startsTransfer rfl rfl rfl,
    startsTransfer rfl rfl rfl⟩
  simp only [writeEffect, performI2cWrite, startTransfer, I2cOp.rule]
  cases transferFault 170 s.i2c <;> rfl

/-- Settles O16: three reads with the test of `exec_knownRead`, the status by its bits, and the FIFO's byte by cases of it. -/
theorem i2cRegisterReads : Obligations.I2cRegisterReads := by
  unfold Obligations.I2cRegisterReads
  refine fun b s => ⟨⟨rfl, rfl, rfl, rfl, rfl⟩, fun hd => exec_knownRead hd rfl rfl, fun hd => exec_knownRead hd rfl rfl,
    fun hd => ?rctrl, fun hd hb => ?rstat, fun hd => ?rdata,
    bankChecked rfl, bankChecked rfl, bankChecked rfl, bankChecked rfl, bankChecked rfl⟩
  case rctrl =>
    rw [← bitAt_zero]
    exact exec_knownRead hd rfl rfl
  case rstat =>
    obtain ⟨htip, hbusy, hrxack⟩ := i2cStatus_fields s.i2c b
    exact ⟨_, exec_read_direct hd rfl rfl, i2cStatus_lt .., htip, by rw [hbusy, I2cUnit.some_busyAt s.i2c hb], hrxack⟩
  case rdata =>
    cases hrx : s.i2c.rx with
    | none => exact exec_read_fault hd rfl (by simp [readEffect, readI2cData, hrx])
    | some d => exact exec_read_direct hd rfl (by simp [readEffect, readI2cData, hrx])

end Sys2Proof.Machine
end

section
/-! Proofs of the family 43_bpi.md: the back-pressure of the read FIFO. What each part of an engine step does to `B.rdq`, that a
step changes it only when `bpiWouldPush` foresees a word, and the engine's enabledness in terms of the room in the FIFO. -/

namespace Sys2Proof.Machine

variable {s t : State} {c : RegVal}

/-! ## The read FIFO after each part of a step -/

/-- `t` has the read FIFO of `s` with one word more at its end (R233). -/
def AddsWord (s t : State) : Prop := ∃ w, t.bpi.rdq = s.bpi.rdq ++ [w]

@[simp] theorem bpiFinish_rdq (c : RegVal) (s : State) : (bpiFinish c s).bpi.rdq = s.bpi.rdq := rfl

@[simp] theorem bpiLoad_assert_rdq (c : RegVal) (s : State) : (bpiLoad c (bpiAssert c s)).bpi.rdq = s.bpi.rdq := by
  rw [bpiLoad_assert]

@[simp] theorem bpiWriteWord_rdq (c : RegVal) (s : State) : (bpiWriteWord c s).bpi.rdq = s.bpi.rdq := by
  unfold bpiWriteWord
  dsimp only
  split_ifs <;> rfl

theorem addsWord_bpiReadWord (s : State) : AddsWord s (bpiReadWord s) :=
  ⟨(flashRead s).1, by simp only [bpiReadWord, State.pushWord_bpi, flashRead_bpi]⟩

theorem addsWord_bpiReadInc (s : State) : AddsWord s (bpiReadInc s) :=
  ⟨_, by simp only [bpiReadInc, State.pushWord_bpi, flashRead_bpi]; rfl⟩

theorem addsWord_bpiStatusStep (c : RegVal) (s : State) : AddsWord s (bpiStatusStep c s) := by
  refine ⟨(flashStatus s).1, ?_⟩
  unfold bpiStatusStep
  dsimp only
  split_ifs <;> simp [flashStatus_bpi]

theorem addsWord_bpiBurstStep (c : RegVal) (s : State) : AddsWord s (bpiBurstStep c s) := by
  unfold AddsWord bpiBurstStep
  dsimp only
  split_ifs <;> simp [flashRead_bpi]

/-! ## Only a step that `bpiWouldPush` foresees changes the FIFO -/

/-- A command that the engine starts passes R222's checks. -/
theorem not_contradictory_of_startFault (h : bpiStartFault c s = none) : ¬Contradictory c := fun hc => by
  have hfault : bpiStartFault c s = some (.bpiCmd 222) := (bpiStartFault_eq_bpiCmd c s 222).2 (.inl ⟨rfl, hc⟩)
  rw [h] at hfault
  cases hfault

/-- The access of a command adds a word only when the command is one that pushes; a burst is one because it is a read (R222). -/
theorem bpiAccess_rdq (hc : ¬Contradictory c) (s : State) :
    (bpiAccess c s).bpi.rdq = s.bpi.rdq ∨ (cmdPushes c = true ∧ AddsWord s (bpiAccess c s)) := by
  obtain ⟨-, burstBits, -⟩ := admissible_bits hc
  unfold bpiAccess
  split_ifs with hburst hread hinc hwrite hwait
  · have hread : cmdRead c = true := (burstBits hburst).1
    exact .inr ⟨by simp [cmdPushes, hread], addsWord_bpiBurstStep c { s with bpi := { s.bpi with burstLeft := _ } }⟩
  · exact .inr ⟨by simp [cmdPushes, hread], addsWord_bpiReadInc s⟩
  · exact .inr ⟨by simp [cmdPushes, hread], addsWord_bpiReadWord s⟩
  · exact .inl (bpiWriteWord_rdq c s)
  · exact .inr ⟨by simp [cmdPushes, hwait], addsWord_bpiStatusStep c { s with bpi := { s.bpi with waiting := true } }⟩
  · exact .inl rfl

/-- What a step of the engine does to the read FIFO (R233). -/
theorem bpiStep_rdq (h : bpiStep s = .ok t) : t.bpi.rdq = s.bpi.rdq ∨ (bpiWouldPush s = true ∧ AddsWord s t) := by
  obtain ⟨-, rfl⟩ | ⟨c, rest, hq, ⟨hw, rfl⟩ | ⟨-, hb, rfl⟩ | ⟨-, -, hf, rfl⟩⟩ := bpiStep_cases h
  · exact .inl rfl
  · exact .inr ⟨by simp [bpiWouldPush, hq, hw], addsWord_bpiStatusStep c s⟩
  · exact .inr ⟨by simp [bpiWouldPush, hq, hb], addsWord_bpiBurstStep c s⟩
  · have haccess := bpiAccess_rdq (not_contradictory_of_startFault hf) (bpiLoad c (bpiAssert c s))
    unfold AddsWord at haccess
    rw [bpiLoad_assert_rdq] at haccess
    exact haccess.imp_right fun ⟨hp, hadds⟩ => ⟨by simp [bpiWouldPush, hq, hf, hp], hadds⟩

/-! ## The engine is enabled exactly when its word has a place -/

theorem enabled_bpi_iff :
    enabled .bpi s = true ↔
      s.bpi.cmdq ≠ [] ∧ (bpiWouldPush s = true → s.bpi.rdq.length < s.cfg.bpiReadFifoDepth) := by
  simp [enabled, bpiEnabled, imp_iff_not_or]

/-- Settles O31: a step changes the FIFO only by the word that `bpiWouldPush` foresees, and the engine is enabled for that word
exactly when the FIFO has a place. -/
theorem engineBackPressure : Obligations.EngineBackPressure := by
  unfold Obligations.EngineBackPressure
  refine ⟨fun s t h => ⟨(bpiStep_rdq h).imp_right And.right, fun hchanged hfull => ?notEnabled⟩,
    fun s w r hcmd hrdq hfits => ?enabledAfterRead⟩
  case notEnabled =>
    obtain ⟨hpush, -⟩ := (bpiStep_rdq h).resolve_left hchanged
    refine eq_false_of_ne_true fun henabled => ?_
    have hroom := (enabled_bpi_iff.1 henabled).2 hpush
    omega
  case enabledAfterRead =>
    have hroom : r.length < s.cfg.bpiReadFifoDepth := by
      rw [hrdq, List.length_cons] at hfits
      omega
    exact enabled_bpi_iff.2 ⟨hcmd, fun _ => hroom⟩

end Sys2Proof.Machine
end

section
/-! Proofs of the family 44_spi_v2.md: the writes that only set a register, of the SPI-v2, SPI-dual and JTAG units. -/

namespace Sys2Proof.Machine

variable {n : Half} {s t : State}

/-! ## The JTAG prescaler and the test clock -/

/-- The cut of R343 leaves a value that its 16-bit register holds, whatever the configured width is. -/
theorem prescOf_toNat (c : Config) (n : Half) : (prescOf c n).toNat = n.toNat % 2 ^ c.jtagPrescalerBits := by
  have hfits : n.toNat % 2 ^ c.jtagPrescalerBits < 2 ^ 16 := (Nat.mod_le _ _).trans_lt n.isLt
  rw [prescOf, BitVec.toNat_ofNat, Nat.mod_eq_of_lt hfits]

/-- The JTAG unit's prescaler register set to the low bits of `n`, as R343 sets it. -/
def State.setPresc (s : State) (n : Half) : State :=
  { s with jtag := { s.jtag with presc := prescOf s.cfg n, prescKnown := true } }

@[simp] theorem testClock_afterWrite (i : Instr) (s : State) : (afterWrite i s).testClock = s.testClock := rfl

theorem testClock_setPresc (s : State) (n : Half) :
    (s.setPresc n).testClock =
      some ((s.cfg.jtagClk : Rat) / 2 ^ (n.toNat % 2 ^ s.cfg.jtagPrescalerBits + 1)) := by
  rw [← prescOf_toNat]
  rfl

/-! ## `JTAG.WPRESC`, by the two branches of R343 -/

theorem writeEffect_jtagWpresc_idle (h : s.jtag.busy = false) :
    writeEffect (.jtagWpresc n) s = .ok (s.setPresc n) := by
  simp [writeEffect, performJtagWpresc, h, State.setPresc]

theorem writeEffect_jtagWpresc_busy (h : s.jtag.busy = true) :
    writeEffect (.jtagWpresc n) s = .error (.jtagBusy 343) := by
  simp [writeEffect, performJtagWpresc, h]

theorem exec_jtagWpresc_idle (hd : Direct (.jtagWpresc n) s) (h : s.jtag.busy = false) :
    exec (.jtagWpresc n) s = .next (afterWrite (.jtagWpresc n) (s.setPresc n)) :=
  exec_direct hd rfl rfl (writeEffect_jtagWpresc_idle h)

theorem exec_jtagWpresc_busy (hd : Direct (.jtagWpresc n) s) (h : s.jtag.busy = true) :
    exec (.jtagWpresc n) s = .fault (.jtagBusy 343) :=
  exec_direct_fault hd rfl rfl (writeEffect_jtagWpresc_busy h)

/-- A prescaler write that answers a next state found no frame in progress, so it set the test clock. -/
theorem testClock_of_exec_jtagWpresc (hd : Direct (.jtagWpresc n) s) (h : exec (.jtagWpresc n) s = .next t) :
    t.testClock = some ((s.cfg.jtagClk : Rat) / 2 ^ (n.toNat % 2 ^ s.cfg.jtagPrescalerBits + 1)) := by
  cases hbusy : s.jtag.busy with
  | true =>
    rw [exec_jtagWpresc_busy hd hbusy] at h
    cases h
  | false =>
    rw [exec_jtagWpresc_idle hd hbusy] at h
    cases h
    rw [testClock_afterWrite, testClock_setPresc]

/-- Settles O33: the SPI-v2 and SPI-dual writes have one branch; the prescaler write has two, by whether a frame is in
progress. -/
theorem plainRegisterWrites : Obligations.PlainRegisterWrites := by
  unfold Obligations.PlainRegisterWrites
  refine fun v f n s => ⟨⟨rfl, rfl, rfl⟩, fun hd => ?spi2Wdata, fun hd => ?spidWfsel,
    exec_jtagWpresc_idle, fun t hd h _ => testClock_of_exec_jtagWpresc hd h, exec_jtagWpresc_busy⟩
  case spi2Wdata => exact exec_direct hd rfl rfl rfl
  case spidWfsel => exact exec_direct hd rfl rfl rfl

end Sys2Proof.Machine
end

section
/-! Proofs of the family 48_host.md: the two operations that carry a status code, by the branches of R404 and R405. -/

namespace Sys2Proof.Machine

variable {k c : Nat} {p : Bool} {s : State} {st : Status}

/-! ## Status codes -/

/-- The statuses in the order of their codes (R420). -/
def statuses : List Status :=
  [.ok, .invalidArgument, .invalidOperation, .invalidState, .deviceIO, .timeout, .noAck]

/-- A code is an index into R420's table. -/
theorem statusOfCode_eq_getElem? : (c : Nat) → statusOfCode c = statuses[c]?
  | 0 | 1 | 2 | 3 | 4 | 5 | 6 => rfl
  | _ + 7 => rfl

theorem statusOfCode_eq_none (h : 6 < c) : statusOfCode c = none := by
  rw [statusOfCode_eq_getElem?]
  exact List.getElem?_eq_none h

/-! ## `HOST.CHECK`, by the branches of R404 -/

theorem exec_hostCheck_illegal (hc : statusOfCode c = none) :
    exec (.hostCheck k p c) s = .fault (.illegal 404) := by
  simp only [exec, execHostCheck, hc]

theorem exec_hostCheck_unwritten (hc : statusOfCode c = some st) (hknown : s.host.lastKnown = false) :
    exec (.hostCheck k p c) s = .fault (.unwritten 404) := by
  simp [exec, execHostCheck, hc, hknown]

theorem exec_hostCheck_passes (hc : statusOfCode c = some st) (hknown : s.host.lastKnown = true)
    (hbit : s.host.last.getLsbD k = p) : exec (.hostCheck k p c) s = .next s.passFence.advance := by
  simp [exec, execHostCheck, hc, hknown, hbit]

theorem exec_hostCheck_ends (hc : statusOfCode c = some st) (hknown : s.host.lastKnown = true)
    (hbit : s.host.last.getLsbD k ≠ p) : exec (.hostCheck k p c) s = .next (s.passFence.endRun st) := by
  simp [exec, execHostCheck, hc, hknown, hbit]

/-! ## `HOST.HALT`, by the branches of R405 -/

theorem exec_hostHalt_illegal (hc : statusOfCode c = none) :
    exec (.hostHalt c) s = .fault (.illegal 405) := by
  simp only [exec, execHostHalt, hc]

theorem exec_hostHalt_ends (hc : statusOfCode c = some st) :
    exec (.hostHalt c) s = .next (s.passFence.endRun st) := by
  simp only [exec, execHostHalt, hc]

/-- Settles O44: one lemma per branch of R404 and R405; with accesses in order there is no fence to pass. -/
theorem hostCheckAndHalt : Obligations.HostCheckAndHalt := by
  unfold Obligations.HostCheckAndHalt
  intro k p c s hord codes
  have hfence : s.passFence = s := s.passFence_inOrder hord
  refine ⟨rfl, rfl, fun hlt => ?illegal, fun st hst => ?legal⟩
  case illegal =>
    have hc : statusOfCode c = none := statusOfCode_eq_none hlt
    exact ⟨exec_hostCheck_illegal hc, exec_hostHalt_illegal hc⟩
  case legal =>
    have hc : statusOfCode c = some st := (statusOfCode_eq_getElem? c).trans hst
    refine ⟨exec_hostCheck_unwritten hc, fun hknown hbit => ?passes, fun hknown hbit => ?ends, ?halts⟩
    case passes => rw [exec_hostCheck_passes hc hknown hbit, hfence, State.advance_eq]
    case ends => rw [exec_hostCheck_ends hc hknown hbit, hfence, State.endRun]
    case halts => rw [exec_hostHalt_ends hc, hfence, State.endRun]

end Sys2Proof.Machine
end

section
/-! Proofs of the family 30_encoding.md: the decoder and the encoder are inverse to each other on the legal words. The operand
fields of a value are read back one by one; the headers are those of `Header.Statement`. -/

namespace Sys2Proof.Machine

open Sys2Proof.Laws

/-! ## The operand fields of a value (R93 to R97) -/

/-- The header lemmas of every instruction at once. -/
theorem header (i : Instr) : Header.Statement i := by
  cases i with
  | i2cWpreLo b v => exact Header.i2cWpreLo b v
  | i2cWpreHi b v => exact Header.i2cWpreHi b v
  | i2cRpreLo b => exact Header.i2cRpreLo b
  | i2cRpreHi b => exact Header.i2cRpreHi b
  | i2cWctrl b en => exact Header.i2cWctrl b en
  | i2cRctrl b => exact Header.i2cRctrl b
  | i2cWrite b d sta sto => exact Header.i2cWrite b d sta sto
  | i2cRead b sta sto nack => exact Header.i2cRead b sta sto nack
  | i2cStop b => exact Header.i2cStop b
  | i2cRstat b => exact Header.i2cRstat b
  | i2cRdata b => exact Header.i2cRdata b
  | bpiCmd cmd => exact Header.bpiCmd cmd
  | bpiRdata => exact Header.bpiRdata
  | bpiWbank k => exact Header.bpiWbank k
  | bpiRbank => exact Header.bpiRbank
  | spi2Wctrl ctl => exact Header.spi2Wctrl ctl
  | spi2Rctrl => exact Header.spi2Rctrl
  | spi2Wdata v => exact Header.spi2Wdata v
  | spi2Rdata => exact Header.spi2Rdata
  | spidWctrl c => exact Header.spidWctrl c
  | spidWfsel v => exact Header.spidWfsel v
  | spidRin => exact Header.spidRin
  | jtagShift n tms tdi => exact Header.jtagShift n tms tdi
  | jtagRtdo => exact Header.jtagRtdo
  | jtagWpresc n => exact Header.jtagWpresc n
  | jtagRstat => exact Header.jtagRstat
  | hostPoll k p => exact Header.hostPoll k p
  | hostCheck k p st => exact Header.hostCheck k p st
  | hostHalt st => exact Header.hostHalt st
  | hostBarrier => exact Header.hostBarrier
  | hostB2b => exact Header.hostB2b

/-- A flag is read from its bit of a value: `lo` below the bit, `hi` above it. -/
theorem flagBit_of_parts {n lo hi k : Nat} {b : Bool} (hlo : lo < 2 ^ k) (hn : n = lo + 2 ^ k * (b.toNat + 2 * hi)) :
    flagBit n k = b := by
  have hdiv : n / 2 ^ k = b.toNat + 2 * hi := by
    rw [hn, Nat.add_mul_div_left _ _ (by positivity), Nat.div_eq_of_lt hlo, Nat.zero_add]
  have hbit : n / 2 ^ k % 2 = b.toNat := by
    have := Bool.toNat_le b
    omega
  rw [flagBit, hbit]
  cases b <;> rfl

/-- A flag as a number. -/
theorem toNat_flagBit (n k : Nat) : (flagBit n k).toNat = n / 2 ^ k % 2 := by
  have hbit : n / 2 ^ k % 2 = 0 ∨ n / 2 ^ k % 2 = 1 := by omega
  rcases hbit with h | h <;> simp [flagBit, h]

theorem ofNat_eq_of_mod {w n : Nat} {v : BitVec w} (h : n % 2 ^ w = v.toNat) : BitVec.ofNat w n = v :=
  BitVec.eq_of_toNat_eq (by rw [BitVec.toNat_ofNat, h])

/-- The fields of a control word of SPI-v2 are read back (R44). -/
theorem spi2CtlOf_value (c : Spi2Ctl) : spi2CtlOf (spi2CtlValue c) = c := by
  obtain ⟨cs, rw', valid, cnt, quad, dev⟩ := c
  have hcs := Bool.toNat_le cs
  have hrw := Bool.toNat_le rw'
  have hvalid := Bool.toNat_le valid
  have hquad := Bool.toNat_le quad
  have hcnt := cnt.isLt
  have hdev := dev.isLt
  simp only [spi2CtlOf, spi2CtlValue, Spi2Ctl.mk.injEq]
  refine ⟨?_, ?_, ?_, ofNat_eq_of_mod ?_, ?_, ofNat_eq_of_mod ?_⟩
  · exact flagBit_of_parts (lo := 0)
      (hi := rw'.toNat + 2 * valid.toNat + 4 * cnt.toNat + 16 * quad.toNat + 128 * dev.toNat) (by omega) (by omega)
  · exact flagBit_of_parts (lo := cs.toNat) (hi := valid.toNat + 2 * cnt.toNat + 8 * quad.toNat + 64 * dev.toNat)
      (by omega) (by omega)
  · exact flagBit_of_parts (lo := cs.toNat + 2 * rw'.toNat) (hi := cnt.toNat + 4 * quad.toNat + 32 * dev.toNat)
      (by omega) (by omega)
  · simp only [field]; omega
  · exact flagBit_of_parts (lo := cs.toNat + 2 * rw'.toNat + 4 * valid.toNat + 8 * cnt.toNat) (hi := 4 * dev.toNat)
      (by omega) (by omega)
  · simp only [field]; omega

/-- The fields of a control word of SPI-dual are read back (R51). -/
theorem spidCtlOf_value (c : SpidCtl) : spidCtlOf (spidCtlValue c) = c := by
  obtain ⟨sck, cs, dout, oe⟩ := c
  have hsck := Bool.toNat_le sck
  have hcs := Bool.toNat_le cs
  have hdout := dout.isLt
  have hoe := oe.isLt
  simp only [spidCtlOf, spidCtlValue, SpidCtl.mk.injEq]
  refine ⟨?_, ?_, ofNat_eq_of_mod ?_, ofNat_eq_of_mod ?_⟩
  · exact flagBit_of_parts (lo := 0) (hi := cs.toNat + 2 * dout.toNat + 32 * oe.toNat) (by omega) (by omega)
  · exact flagBit_of_parts (lo := sck.toNat) (hi := 2 * (dout.toNat + 16 * oe.toNat) / 2) (by omega) (by omega)
  · simp only [field]; omega
  · simp only [field]; omega

/-- A control word of SPI-v2 is the number its fields were read from, where the bits that no field has are 0 (R44). -/
theorem spi2CtlValue_of {v : Nat} (hv : v < 4096) (hz : field v 6 2 = 0) : spi2CtlValue (spi2CtlOf v) = v := by
  simp only [spi2CtlOf, spi2CtlValue, toNat_flagBit, BitVec.toNat_ofNat, field] at hz ⊢
  omega

/-- A control word of SPI-dual is the number its fields were read from (R51). -/
theorem spidCtlValue_of {v : Nat} (hv : v < 1024) : spidCtlValue (spidCtlOf v) = v := by
  simp only [spidCtlOf, spidCtlValue, toNat_flagBit, BitVec.toNat_ofNat, field]
  omega

/-! ## Decoding an encoded instruction -/

/-- A decoder's answer on the fields of an instruction's own word. -/
def DecodesFields (i : Instr) : Prop :=
  (match i.unit with
    | .i2c => decodeI2c i.op i.aux i.value
    | .bpi => decodeBpi i.op i.aux i.value
    | .spi2 => decodeSpi2 i.op i.aux i.value
    | .spid => decodeSpid i.op i.aux i.value
    | .jtag => decodeJtag i.op i.aux i.value
    | .host => decodeHost i.op i.aux i.value) = some i

/-- Decoding a word is decoding its fields by its unit. -/
theorem decode_encode_of_fields {i : Instr} (hwf : i.WellFormed = true) (h : DecodesFields i) :
    decode (encode i) = some i := by
  obtain ⟨hunit, hop, haux, hrsv, hvalue⟩ := header i hwf
  unfold DecodesFields at h
  simp only [decode, hunit, hop, haux, hrsv, hvalue, if_true]
  cases hu : i.unit <;> rw [hu] at h <;> exact h

theorem decodesFields_i2c {i : Instr} (hu : i.unit = .i2c) (hwf : i.WellFormed = true) : DecodesFields i := by
  unfold DecodesFields
  rw [hu]
  have hbank : ∀ b, i.bank? = some b → b < 8 := by
    intro b hb
    cases i <;> cases hu <;> cases hb <;> simpa [Instr.WellFormed] using hwf
  cases i with
  | i2cWpreLo b v =>
    show decodeI2c 0 b v.toNat = _
    simp [decodeI2c, hbank b rfl, legal, show v.toNat < 256 from v.isLt]
  | i2cWpreHi b v =>
    show decodeI2c 1 b v.toNat = _
    simp [decodeI2c, hbank b rfl, legal, show v.toNat < 256 from v.isLt]
  | i2cRpreLo b => show decodeI2c 2 b 0 = _; simp [decodeI2c, hbank b rfl, legal]
  | i2cRpreHi b => show decodeI2c 3 b 0 = _; simp [decodeI2c, hbank b rfl, legal]
  | i2cWctrl b en => show decodeI2c 4 b en.toNat = _; cases en <;> simp [decodeI2c, hbank b rfl, legal, flagBit]
  | i2cRctrl b => show decodeI2c 5 b 0 = _; simp [decodeI2c, hbank b rfl, legal]
  | i2cWrite b d sta sto =>
    show decodeI2c 6 b (d.toNat + 256 * sta.toNat + 512 * sto.toNat) = _
    have hsta := Bool.toNat_le sta
    have hsto := Bool.toNat_le sto
    have hd := d.isLt
    generalize hv : d.toNat + 256 * sta.toNat + 512 * sto.toNat = v
    have hdata : BitVec.ofNat 8 v = d := ofNat_eq_of_mod (by omega)
    have h8 : flagBit v 8 = sta := flagBit_of_parts (lo := d.toNat) (hi := sto.toNat) (by omega) (by omega)
    have h9 : flagBit v 9 = sto :=
      flagBit_of_parts (lo := d.toNat + 256 * sta.toNat) (hi := 0) (by omega) (by omega)
    simp [decodeI2c, hbank b rfl, legal, hdata, h8, h9, show v < 1024 by omega]
  | i2cRead b sta sto nack =>
    show decodeI2c 7 b (256 * sta.toNat + 512 * sto.toNat + 1024 * nack.toNat) = _
    have hsta := Bool.toNat_le sta
    have hsto := Bool.toNat_le sto
    have hnack := Bool.toNat_le nack
    generalize hv : 256 * sta.toNat + 512 * sto.toNat + 1024 * nack.toNat = v
    have h8 : flagBit v 8 = sta :=
      flagBit_of_parts (lo := 0) (hi := sto.toNat + 2 * nack.toNat) (by omega) (by omega)
    have h9 : flagBit v 9 = sto :=
      flagBit_of_parts (lo := 256 * sta.toNat) (hi := nack.toNat) (by omega) (by omega)
    have h10 : flagBit v 10 = nack :=
      flagBit_of_parts (lo := 256 * sta.toNat + 512 * sto.toNat) (hi := 0) (by omega) (by omega)
    simp [decodeI2c, hbank b rfl, legal, h8, h9, h10, show v < 2048 ∧ v % 256 = 0 by omega]
  | i2cStop b => show decodeI2c 8 b 0 = _; simp [decodeI2c, hbank b rfl, legal]
  | i2cRstat b => show decodeI2c 9 b 0 = _; simp [decodeI2c, hbank b rfl, legal]
  | i2cRdata b => show decodeI2c 10 b 0 = _; simp [decodeI2c, hbank b rfl, legal]
  | _ => cases hu

theorem decodesFields_bpi {i : Instr} (hu : i.unit = .bpi) : DecodesFields i := by
  unfold DecodesFields
  rw [hu]
  cases i with
  | bpiCmd cmd => show decodeBpi 0 0 cmd.toNat = _; simp [decodeBpi]
  | bpiWbank k =>
    show decodeBpi 2 0 k.toNat = _
    simp [decodeBpi, legal, show k.toNat < 256 from k.isLt]
  | bpiRdata => rfl
  | bpiRbank => rfl
  | _ => cases hu

theorem decodesFields_spi2 {i : Instr} (hu : i.unit = .spi2) : DecodesFields i := by
  unfold DecodesFields
  rw [hu]
  cases i with
  | spi2Wctrl c =>
    show decodeSpi2 0 0 (spi2CtlValue c) = _
    have hlegal : spi2CtlValue c < 4096 ∧ field (spi2CtlValue c) 6 2 = 0 := by
      have hcs := Bool.toNat_le c.cs
      have hrw := Bool.toNat_le c.rw
      have hvalid := Bool.toNat_le c.valid
      have hquad := Bool.toNat_le c.quad
      have hcnt := c.cntM1.isLt
      have hdev := c.dev.isLt
      simp only [spi2CtlValue, field]
      omega
    simp [decodeSpi2, legal, hlegal, spi2CtlOf_value]
  | spi2Wdata v => show decodeSpi2 2 0 v.toNat = _; simp [decodeSpi2]
  | spi2Rctrl => rfl
  | spi2Rdata => rfl
  | _ => cases hu

theorem decodesFields_spid {i : Instr} (hu : i.unit = .spid) : DecodesFields i := by
  unfold DecodesFields
  rw [hu]
  cases i with
  | spidWctrl c =>
    show decodeSpid 0 0 (spidCtlValue c) = _
    have hlegal : spidCtlValue c < 1024 := by
      have hsck := Bool.toNat_le c.sck
      have hcs := Bool.toNat_le c.cs
      have hdout := c.dout.isLt
      have hoe := c.oe.isLt
      simp only [spidCtlValue]
      omega
    simp [decodeSpid, legal, hlegal, spidCtlOf_value]
  | spidWfsel v =>
    show decodeSpid 1 0 v.toNat = _
    simp [decodeSpid, legal, show v.toNat < 16 from v.isLt]
  | spidRin => rfl
  | _ => cases hu

theorem decodesFields_jtag {i : Instr} (hu : i.unit = .jtag) (hwf : i.WellFormed = true) : DecodesFields i := by
  unfold DecodesFields
  rw [hu]
  cases i with
  | jtagShift n tms tdi =>
    show decodeJtag 0 (n - 1) (tdi.toNat + 65536 * tms.toNat) = _
    simp only [Instr.WellFormed, countFits, Bool.and_eq_true, decide_eq_true_eq] at hwf
    have htms := tms.isLt
    have htdi := tdi.isLt
    have hhigh : BitVec.ofNat 16 (field (tdi.toNat + 65536 * tms.toNat) 16 16) = tms :=
      ofNat_eq_of_mod (by simp only [field]; omega)
    have hlow : BitVec.ofNat 16 (field (tdi.toNat + 65536 * tms.toNat) 0 16) = tdi :=
      ofNat_eq_of_mod (by simp only [field]; omega)
    have hcount : n - 1 + 1 = n ∧ n - 1 < 16 := by omega
    simp only [decodeJtag, hhigh, hlow, hcount]
    rfl
  | jtagWpresc n =>
    show decodeJtag 2 0 n.toNat = _
    simp [decodeJtag, legal, show n.toNat < 65536 from n.isLt]
  | jtagRtdo => rfl
  | jtagRstat => rfl
  | _ => cases hu

/-- The bit index and the polarity of a host operation are read back (R96). -/
theorem bitIndex_parts {k : Nat} (hk : k < 32) (p : Bool) :
    (k + 32 * p.toNat) % 32 = k ∧ flagBit (k + 32 * p.toNat) 5 = p ∧ k + 32 * p.toNat < 64 := by
  have hp := Bool.toNat_le p
  exact ⟨by omega, flagBit_of_parts (lo := k) (hi := 0) (by omega) (by omega), by omega⟩

theorem decodesFields_host {i : Instr} (hu : i.unit = .host) (hwf : i.WellFormed = true) : DecodesFields i := by
  unfold DecodesFields
  rw [hu]
  cases i with
  | hostPoll k p =>
    show decodeHost 0 (k + 32 * p.toNat) 0 = _
    simp only [Instr.WellFormed, bitFits, decide_eq_true_eq] at hwf
    obtain ⟨hindex, hpol, haux⟩ := bitIndex_parts hwf p
    simp [decodeHost, hindex, hpol, haux, legal]
  | hostCheck k p st =>
    show decodeHost 1 (k + 32 * p.toNat) st = _
    simp only [Instr.WellFormed, bitFits, statusFits, Bool.and_eq_true, decide_eq_true_eq] at hwf
    obtain ⟨hindex, hpol, haux⟩ := bitIndex_parts hwf.1 p
    simp [decodeHost, hindex, hpol, haux, hwf, legal]
  | hostHalt st =>
    show decodeHost 2 0 st = _
    simp only [Instr.WellFormed, statusFits, decide_eq_true_eq] at hwf
    simp [decodeHost, hwf, legal]
  | hostBarrier => rfl
  | hostB2b => rfl
  | _ => cases hu

/-- Settles O1: by units, the decoder reads every operand back from the fields that the header lemmas give. -/
theorem decodeEncode : Obligations.DecodeEncode := by
  unfold Obligations.DecodeEncode
  intro i hwf
  refine decode_encode_of_fields hwf ?_
  cases hu : i.unit with
  | i2c => exact decodesFields_i2c hu hwf
  | bpi => exact decodesFields_bpi hu
  | spi2 => exact decodesFields_spi2 hu
  | spid => exact decodesFields_spid hu
  | jtag => exact decodesFields_jtag hu hwf
  | host => exact decodesFields_host hu hwf

end Sys2Proof.Machine
end

section
/-! Proofs of the family 30_encoding.md: a word that decodes is the word of its instruction, and the rows of the opcode table are
the legal words. -/

namespace Sys2Proof.Machine

/-! ## The word of a decoded instruction (R90, R91) -/

theorem legal_eq_some {b : Bool} {i j : Instr} : legal b i = some j ↔ b = true ∧ i = j := by
  cases b <;> simp [legal]

/-- A word with no reserved bit is made of its fields. -/
theorem mce_fields {w : MceWord} (h : mceRsv w = 0) : mce (mceUnit w) (mceOp w) (mceAux w) (mceValue w) = w := by
  have hw := w.isLt
  apply BitVec.eq_of_toNat_eq
  simp only [mce, BitVec.toNat_ofNat, mceRsv, mceUnit, mceOp, mceAux, mceValue, field] at h ⊢
  omega

/-- An instruction of the encoding with these fields. -/
structure HasFields (u : UnitId) (op aux v : Nat) (i : Instr) : Prop where
  wellFormed : i.WellFormed = true
  unit : i.unit = u
  op : i.op = op
  aux : i.aux = aux
  value : i.value = v

variable {u : UnitId} {op aux v : Nat} {i j : Instr} {p q : Prop} [Decidable p] [Decidable q]

/-- A table row with one condition gives its instruction only where the condition holds. -/
theorem HasFields.of_legal (h : legal (decide p) j = some i) (hj : p → HasFields u op aux v j) :
    HasFields u op aux v i := by
  obtain ⟨hp, rfl⟩ := legal_eq_some.1 h
  exact hj (of_decide_eq_true hp)

/-- A table row with two conditions gives its instruction only where both hold. -/
theorem HasFields.of_legal_and (h : legal (decide p && decide q) j = some i)
    (hj : p → q → HasFields u op aux v j) : HasFields u op aux v i := by
  rw [← Bool.decide_and] at h
  exact .of_legal h fun ⟨hp, hq⟩ => hj hp hq

/-- A table row without a condition gives its instruction. -/
theorem HasFields.of_some (h : some j = some i) (hj : HasFields u op aux v j) : HasFields u op aux v i :=
  Option.some.inj h ▸ hj

theorem decodeI2c_fields (h : decodeI2c op aux v = some i) : HasFields .i2c op aux v i := by
  unfold decodeI2c at h
  split_ifs at h with hbank
  have hwf : bankFits aux = true := decide_eq_true hbank
  have hbyte : ∀ {n : Nat}, n < 256 → (BitVec.ofNat 8 n).toNat = n := fun hn => by simpa using hn
  split at h
  · exact .of_legal h fun hv => ⟨hwf, rfl, rfl, rfl, hbyte hv⟩
  · exact .of_legal h fun hv => ⟨hwf, rfl, rfl, rfl, hbyte hv⟩
  · exact .of_legal h fun hv => ⟨hwf, rfl, rfl, rfl, hv.symm⟩
  · exact .of_legal h fun hv => ⟨hwf, rfl, rfl, rfl, hv.symm⟩
  · refine .of_legal h fun hv => ⟨hwf, rfl, rfl, rfl, ?_⟩
    simp only [Instr.value, toNat_flagBit]
    omega
  · exact .of_legal h fun hv => ⟨hwf, rfl, rfl, rfl, hv.symm⟩
  · refine .of_legal h fun hv => ⟨hwf, rfl, rfl, rfl, ?_⟩
    simp only [Instr.value, toNat_flagBit, BitVec.toNat_ofNat]
    omega
  · refine .of_legal_and h fun hv hbyte0 => ⟨hwf, rfl, rfl, rfl, ?_⟩
    simp only [Instr.value, toNat_flagBit]
    omega
  · exact .of_legal h fun hv => ⟨hwf, rfl, rfl, rfl, hv.symm⟩
  · exact .of_legal h fun hv => ⟨hwf, rfl, rfl, rfl, hv.symm⟩
  · exact .of_legal h fun hv => ⟨hwf, rfl, rfl, rfl, hv.symm⟩
  · cases h

theorem decodeBpi_fields (hv : v < 2 ^ 32) (h : decodeBpi op aux v = some i) : HasFields .bpi op aux v i := by
  unfold decodeBpi at h
  split_ifs at h with haux
  subst haux
  split at h
  · exact .of_some h ⟨rfl, rfl, rfl, rfl, by simpa [Instr.value] using hv⟩
  · exact .of_legal h fun h0 => ⟨rfl, rfl, rfl, rfl, h0.symm⟩
  · exact .of_legal h fun hbyte => ⟨rfl, rfl, rfl, rfl, by simpa [Instr.value] using hbyte⟩
  · exact .of_legal h fun h0 => ⟨rfl, rfl, rfl, rfl, h0.symm⟩
  · cases h

theorem decodeSpi2_fields (hv : v < 2 ^ 32) (h : decodeSpi2 op aux v = some i) : HasFields .spi2 op aux v i := by
  unfold decodeSpi2 at h
  split_ifs at h with haux
  subst haux
  split at h
  · exact .of_legal_and h fun hlt hzero => ⟨rfl, rfl, rfl, rfl, spi2CtlValue_of hlt hzero⟩
  · exact .of_legal h fun h0 => ⟨rfl, rfl, rfl, rfl, h0.symm⟩
  · exact .of_some h ⟨rfl, rfl, rfl, rfl, by simpa [Instr.value] using hv⟩
  · exact .of_legal h fun h0 => ⟨rfl, rfl, rfl, rfl, h0.symm⟩
  · cases h

theorem decodeSpid_fields (h : decodeSpid op aux v = some i) : HasFields .spid op aux v i := by
  unfold decodeSpid at h
  split_ifs at h with haux
  subst haux
  split at h
  · exact .of_legal h fun hlt => ⟨rfl, rfl, rfl, rfl, spidCtlValue_of hlt⟩
  · exact .of_legal h fun hlt => ⟨rfl, rfl, rfl, rfl, by simpa [Instr.value] using hlt⟩
  · exact .of_legal h fun h0 => ⟨rfl, rfl, rfl, rfl, h0.symm⟩
  · cases h

theorem decodeJtag_fields (hv : v < 2 ^ 32) (h : decodeJtag op aux v = some i) : HasFields .jtag op aux v i := by
  unfold decodeJtag at h
  split at h
  · refine .of_legal h fun haux => ⟨?_, rfl, rfl, rfl, ?_⟩
    · simp only [Instr.WellFormed, countFits, Bool.and_eq_true, decide_eq_true_eq]
      omega
    · simp only [Instr.value, BitVec.toNat_ofNat, field]
      omega
  · exact .of_legal_and h fun haux h0 => ⟨rfl, rfl, rfl, haux.symm, h0.symm⟩
  · exact .of_legal_and h fun haux hlt => ⟨rfl, rfl, rfl, haux.symm, by simpa [Instr.value] using hlt⟩
  · exact .of_legal_and h fun haux h0 => ⟨rfl, rfl, rfl, haux.symm, h0.symm⟩
  · cases h

/-- The bit index and the polarity make up the `aux` field again (R96). -/
theorem bitIndex_aux (h : aux < 64) : aux % 32 + 32 * (flagBit aux 5).toNat = aux := by
  rw [toNat_flagBit]
  omega

theorem decodeHost_fields (h : decodeHost op aux v = some i) : HasFields .host op aux v i := by
  have hindex : bitFits (aux % 32) = true := decide_eq_true (Nat.mod_lt _ (by omega))
  unfold decodeHost at h
  split at h
  · exact .of_legal_and h fun haux h0 => ⟨hindex, rfl, rfl, bitIndex_aux haux, h0.symm⟩
  · exact .of_legal_and h fun haux hcode =>
      ⟨by simp [Instr.WellFormed, hindex, hcode], rfl, rfl, bitIndex_aux haux, rfl⟩
  · exact .of_legal_and h fun haux hcode => ⟨by simp [Instr.WellFormed, hcode], rfl, rfl, haux.symm, rfl⟩
  · exact .of_legal_and h fun haux h0 => ⟨rfl, rfl, rfl, haux.symm, h0.symm⟩
  · exact .of_legal_and h fun haux h0 => ⟨rfl, rfl, rfl, haux.symm, h0.symm⟩
  · cases h

/-- What a decoded word holds: no reserved bit, and the fields of its instruction. -/
theorem decode_fields {w : MceWord} (h : decode w = some i) :
    mceRsv w = 0 ∧ ∃ u, u.code = mceUnit w ∧ HasFields u (mceOp w) (mceAux w) (mceValue w) i := by
  have hv : mceValue w < 2 ^ 32 := Nat.mod_lt _ (by positivity)
  unfold decode at h
  split_ifs at h with hrsv
  refine ⟨hrsv, ?_⟩
  split at h <;> rename_i hu
  · exact ⟨.i2c, hu.symm, decodeI2c_fields h⟩
  · exact ⟨.bpi, hu.symm, decodeBpi_fields hv h⟩
  · exact ⟨.spi2, hu.symm, decodeSpi2_fields hv h⟩
  · exact ⟨.spid, hu.symm, decodeSpid_fields h⟩
  · exact ⟨.jtag, hu.symm, decodeJtag_fields hv h⟩
  · exact ⟨.host, hu.symm, decodeHost_fields h⟩
  · cases h

/-- Settles O2: a decoded word has the fields of its instruction and no reserved bit, so it is that instruction's word. -/
theorem encodeDecode : Obligations.EncodeDecode := by
  unfold Obligations.EncodeDecode
  intro w i h
  obtain ⟨hrsv, u, hu, hwf, hunit, hop, haux, hvalue⟩ := decode_fields h
  exact ⟨hwf, by rw [encode, hunit, hu, hop, haux, hvalue, mce_fields hrsv]⟩

/-! ## The rows of the opcode table (R91) -/

/-- A row of the opcode table within its unit: the operation, how many low bits of `aux` an operand takes, and the fields
`(lo, len)` of `value` that must be zero. -/
structure OpcodeRow where
  op : Nat
  auxBits : Nat
  zero : List (Nat × Nat)

/-- The rows of each unit, in the order of the table (R94 to R97). -/
def unitRows : UnitId → List OpcodeRow
  | .i2c => [⟨0, 3, [(8, 24)]⟩, ⟨1, 3, [(8, 24)]⟩, ⟨2, 3, [(0, 32)]⟩, ⟨3, 3, [(0, 32)]⟩, ⟨4, 3, [(1, 31)]⟩,
      ⟨5, 3, [(0, 32)]⟩, ⟨6, 3, [(10, 22)]⟩, ⟨7, 3, [(0, 8), (11, 21)]⟩, ⟨8, 3, [(0, 32)]⟩, ⟨9, 3, [(0, 32)]⟩,
      ⟨10, 3, [(0, 32)]⟩]
  | .bpi => [⟨0, 0, []⟩, ⟨1, 0, [(0, 32)]⟩, ⟨2, 0, [(8, 24)]⟩, ⟨3, 0, [(0, 32)]⟩]
  | .spi2 => [⟨0, 0, [(6, 2), (12, 20)]⟩, ⟨1, 0, [(0, 32)]⟩, ⟨2, 0, []⟩, ⟨3, 0, [(0, 32)]⟩]
  | .spid => [⟨0, 0, [(10, 22)]⟩, ⟨1, 0, [(4, 28)]⟩, ⟨2, 0, [(0, 32)]⟩]
  | .jtag => [⟨0, 4, []⟩, ⟨1, 0, [(0, 32)]⟩, ⟨2, 0, [(16, 16)]⟩, ⟨3, 0, [(0, 32)]⟩]
  | .host => [⟨0, 6, [(0, 32)]⟩, ⟨1, 6, [(4, 28)]⟩, ⟨2, 0, [(4, 28)]⟩, ⟨3, 0, [(0, 32)]⟩, ⟨4, 0, [(0, 32)]⟩]

/-- Every row with its unit. -/
def unitRowTable : List (UnitId × OpcodeRow) :=
  [UnitId.i2c, .bpi, .spi2, .spid, .jtag, .host].flatMap fun u => (unitRows u).map (u, ·)

theorem mem_unitRowTable {u : UnitId} {r : OpcodeRow} : (u, r) ∈ unitRowTable ↔ r ∈ unitRows u := by
  cases u <;> simp [unitRowTable]

/-! ### The legal fields of a unit are those of its rows -/

/-- The row is that of the operation, and its must-be-zero bits of `aux` and `value` are zero. -/
def OpcodeRow.Admits (r : OpcodeRow) (op aux v : Nat) : Prop :=
  r.op = op ∧ aux < 2 ^ r.auxBits ∧ ∀ p ∈ r.zero, field v p.1 p.2 = 0

theorem exists_legal {b : Bool} {i : Instr} : (∃ j, legal b i = some j) ↔ b = true := by
  simp [legal_eq_some]

theorem decodeI2c_iff_row (hv : v < 2 ^ 32) :
    (∃ i, decodeI2c op aux v = some i) ↔ ∃ r ∈ unitRows .i2c, r.Admits op aux v := by
  simp only [unitRows, List.exists_mem_cons_iff, List.not_mem_nil, false_and, exists_false, or_false, OpcodeRow.Admits,
    List.forall_mem_cons, List.not_mem_nil, false_implies, implies_true, and_true, field]
  unfold decodeI2c
  by_cases haux : aux < 8
  · rw [if_pos haux]
    rcases op with _ | _ | _ | _ | _ | _ | _ | _ | _ | _ | _ | op <;> simp [exists_legal, haux] <;> omega
  · rw [if_neg haux]
    simp [haux]

theorem decodeBpi_iff_row (hv : v < 2 ^ 32) :
    (∃ i, decodeBpi op aux v = some i) ↔ ∃ r ∈ unitRows .bpi, r.Admits op aux v := by
  simp only [unitRows, List.exists_mem_cons_iff, List.not_mem_nil, false_and, exists_false, or_false, OpcodeRow.Admits,
    List.forall_mem_cons, List.not_mem_nil, false_implies, implies_true, and_true, field]
  unfold decodeBpi
  rcases op with _ | _ | _ | _ | op <;> split_ifs <;> simp [exists_legal] <;> omega

theorem decodeSpi2_iff_row (hv : v < 2 ^ 32) :
    (∃ i, decodeSpi2 op aux v = some i) ↔ ∃ r ∈ unitRows .spi2, r.Admits op aux v := by
  simp only [unitRows, List.exists_mem_cons_iff, List.not_mem_nil, false_and, exists_false, or_false, OpcodeRow.Admits,
    List.forall_mem_cons, List.not_mem_nil, false_implies, implies_true, and_true]
  unfold decodeSpi2
  rcases op with _ | _ | _ | _ | op <;> split_ifs <;> simp [exists_legal] <;> (try simp only [field]) <;> omega

theorem decodeSpid_iff_row (hv : v < 2 ^ 32) :
    (∃ i, decodeSpid op aux v = some i) ↔ ∃ r ∈ unitRows .spid, r.Admits op aux v := by
  simp only [unitRows, List.exists_mem_cons_iff, List.not_mem_nil, false_and, exists_false, or_false, OpcodeRow.Admits,
    List.forall_mem_cons, List.not_mem_nil, false_implies, implies_true, and_true, field]
  unfold decodeSpid
  rcases op with _ | _ | _ | op <;> split_ifs <;> simp [exists_legal] <;> omega

theorem decodeJtag_iff_row (hv : v < 2 ^ 32) :
    (∃ i, decodeJtag op aux v = some i) ↔ ∃ r ∈ unitRows .jtag, r.Admits op aux v := by
  simp only [unitRows, List.exists_mem_cons_iff, List.not_mem_nil, false_and, exists_false, or_false, OpcodeRow.Admits,
    List.forall_mem_cons, List.not_mem_nil, false_implies, implies_true, and_true, field]
  unfold decodeJtag
  rcases op with _ | _ | _ | _ | op <;> simp [exists_legal] <;> omega

theorem decodeHost_iff_row (hv : v < 2 ^ 32) :
    (∃ i, decodeHost op aux v = some i) ↔ ∃ r ∈ unitRows .host, r.Admits op aux v := by
  simp only [unitRows, List.exists_mem_cons_iff, List.not_mem_nil, false_and, exists_false, or_false, OpcodeRow.Admits,
    List.forall_mem_cons, List.not_mem_nil, false_implies, implies_true, and_true, field]
  unfold decodeHost
  rcases op with _ | _ | _ | _ | _ | op <;> simp [exists_legal] <;> omega

/-- A word is legal exactly when its reserved bits are zero and its fields are those of a row of its unit. -/
theorem decode_iff_row {w : MceWord} :
    (∃ i, decode w = some i) ↔
      mceRsv w = 0 ∧ ∃ u r, r ∈ unitRows u ∧ u.code = mceUnit w ∧ r.Admits (mceOp w) (mceAux w) (mceValue w) := by
  have hv : mceValue w < 2 ^ 32 := Nat.mod_lt _ (by positivity)
  have hunits : ∀ {n : Nat} {u : UnitId} {P : UnitId → Prop}, u.code = n →
      ((∃ u, u.code = n ∧ P u) ↔ P u) := by
    rintro _ u P rfl
    refine ⟨fun ⟨x, hx, h⟩ => ?_, fun h => ⟨u, rfl, h⟩⟩
    have hxu : x = u := by cases x <;> cases u <;> first | rfl | cases hx
    exact hxu ▸ h
  have hcomm : (∃ u r, r ∈ unitRows u ∧ u.code = mceUnit w ∧ r.Admits (mceOp w) (mceAux w) (mceValue w)) ↔
      ∃ u, u.code = mceUnit w ∧ ∃ r ∈ unitRows u, r.Admits (mceOp w) (mceAux w) (mceValue w) := by
    exact ⟨fun ⟨u, r, hr, hu, h⟩ => ⟨u, hu, r, hr, h⟩, fun ⟨u, hu, r, hr, h⟩ => ⟨u, r, hr, hu, h⟩⟩
  rw [hcomm]
  unfold decode
  by_cases hrsv : mceRsv w = 0
  · rw [if_pos hrsv]
    simp only [hrsv, true_and]
    split <;> rename_i hu
    · rw [hunits (u := .i2c) hu.symm, decodeI2c_iff_row hv]
    · rw [hunits (u := .bpi) hu.symm, decodeBpi_iff_row hv]
    · rw [hunits (u := .spi2) hu.symm, decodeSpi2_iff_row hv]
    · rw [hunits (u := .spid) hu.symm, decodeSpid_iff_row hv]
    · rw [hunits (u := .jtag) hu.symm, decodeJtag_iff_row hv]
    · rw [hunits (u := .host) hu.symm, decodeHost_iff_row hv]
    · refine ⟨fun ⟨i, h⟩ => (by cases h), ?_⟩
      rintro ⟨u, h, -⟩
      cases u <;> simp only [UnitId.code] at h <;> simp_all
  · rw [if_neg hrsv]
    simp [hrsv]

/-! ### A word agrees with a mask and a match exactly when its fields do -/

/-- The fields `(lo, len, value)` of a word that a row fixes. -/
def OpcodeRow.fields (u : UnitId) (r : OpcodeRow) : List (Nat × Nat × Nat) :=
  [(60, 4, u.code), (56, 4, r.op), (48 + r.auxBits, 8 - r.auxBits, 0), (32, 16, 0)] ++ r.zero.map fun p => (p.1, p.2, 0)

/-- The word has the number of each field. -/
def Agrees (fields : List (Nat × Nat × Nat)) (w : MceWord) : Prop := ∀ f ∈ fields, field w.toNat f.1 f.2.1 = f.2.2

/-- The fields are those that a mask covers, with the values of its match: a check of the 64 bits. -/
def coversRow (fields : List (Nat × Nat × Nat)) (r : MceWord × MceWord) : Bool :=
  (List.range 64).all (fun i => r.1.getLsbD i == fields.any (fun f => decide (f.1 ≤ i) && decide (i < f.1 + f.2.1))) &&
  fields.all (fun f => decide (field r.2.toNat f.1 f.2.1 = f.2.2) && decide (f.1 + f.2.1 ≤ 64)) &&
  decide (r.2 &&& r.1 = r.2)

theorem field_eq_iff {n m lo len : Nat} :
    field n lo len = field m lo len ↔ ∀ k < len, n.testBit (lo + k) = m.testBit (lo + k) := by
  have hbit : ∀ n k, (field n lo len).testBit k = (decide (k < len) && n.testBit (lo + k)) := fun n k => by
    simp [field, Nat.testBit_mod_two_pow, Nat.testBit_div_two_pow, Nat.add_comm]
  constructor
  · intro h k hk
    simpa [hbit, hk] using congrArg (Nat.testBit · k) h
  · intro h
    refine Nat.eq_of_testBit_eq fun k => ?_
    rw [hbit, hbit]
    by_cases hk : k < len
    · rw [h k hk]
    · simp [hk]

/-- The word agrees with a match on a mask exactly when it has the numbers of the fields. -/
theorem masked_iff_agrees {fields : List (Nat × Nat × Nat)} {r : MceWord × MceWord} (h : coversRow fields r = true)
    (w : MceWord) : w &&& r.1 = r.2 ↔ Agrees fields w := by
  simp only [coversRow, Bool.and_eq_true, List.all_eq_true, List.mem_range, beq_iff_eq, decide_eq_true_eq] at h
  obtain ⟨⟨hmask, hfields⟩, hmatch⟩ := h
  constructor
  · intro hw f hf
    obtain ⟨hvalue, hfits⟩ := hfields f hf
    rw [← hvalue, field_eq_iff]
    intro k hk
    have hcovered : r.1.getLsbD (f.1 + k) = true := by
      rw [hmask _ (by omega), List.any_eq_true]
      exact ⟨f, hf, by simp; omega⟩
    rw [BitVec.testBit_toNat, BitVec.testBit_toNat, ← hw, BitVec.getLsbD_and, hcovered, Bool.and_true]
  · intro hw
    refine BitVec.eq_of_getLsbD_eq fun i hi => ?_
    rw [BitVec.getLsbD_and]
    cases hm : r.1.getLsbD i with
    | false =>
      rw [Bool.and_false, ← hmatch, BitVec.getLsbD_and, hm, Bool.and_false]
    | true =>
      rw [hmask i hi, List.any_eq_true] at hm
      obtain ⟨f, hf, hin⟩ := hm
      simp only [Bool.and_eq_true, decide_eq_true_eq] at hin
      have hsame := field_eq_iff.1 ((hw f hf).trans (hfields f hf).1.symm) (i - f.1) (by omega)
      rw [Nat.add_sub_cancel' hin.1] at hsame
      rwa [Bool.and_true, ← BitVec.testBit_toNat, ← BitVec.testBit_toNat]

/-- Every row of the table covers the fields of its operation. -/
theorem opcodeRows_cover :
    List.Forall₂ (fun r x => coversRow (x.2.fields x.1) r = true) opcodeRows unitRowTable := by
  decide

theorem Forall₂_exists_iff {α β : Type} {R : α → β → Prop} {P : α → Prop} {Q : β → Prop} {l : List α} {m : List β}
    (h : List.Forall₂ R l m) (hR : ∀ a b, R a b → (P a ↔ Q b)) : (∃ a ∈ l, P a) ↔ ∃ b ∈ m, Q b := by
  induction h with
  | nil => simp
  | cons hab _ ih => simp only [List.exists_mem_cons_iff, hR _ _ hab, ih]

/-- A word agrees with some row exactly when it has the fields of some row of the units. -/
theorem opcodeRows_iff {w : MceWord} :
    (∃ r ∈ opcodeRows, w &&& r.1 = r.2) ↔ ∃ u r, r ∈ unitRows u ∧ Agrees (r.fields u) w := by
  rw [Forall₂_exists_iff (Q := fun x => Agrees (x.2.fields x.1) w) opcodeRows_cover
    (fun r x h => masked_iff_agrees h w)]
  simp [mem_unitRowTable]

/-- The widths of the rows' fields. -/
theorem unitRowTable_fits : ∀ x ∈ unitRowTable, x.2.auxBits ∈ [0, 3, 4, 6] ∧ ∀ p ∈ x.2.zero, p.1 + p.2 ≤ 32 := by
  decide

/-- The fields of a row that a word has, by the parts of the word. -/
theorem agrees_fields_iff {u : UnitId} {r : OpcodeRow} (hr : r ∈ unitRows u) {w : MceWord} :
    Agrees (r.fields u) w ↔
      mceRsv w = 0 ∧ u.code = mceUnit w ∧ r.Admits (mceOp w) (mceAux w) (mceValue w) := by
  have haux : field w.toNat (48 + r.auxBits) (8 - r.auxBits) = 0 ↔ mceAux w < 2 ^ r.auxBits := by
    have hbits := (unitRowTable_fits _ (mem_unitRowTable.2 hr)).1
    simp only [List.mem_cons, List.not_mem_nil, or_false] at hbits
    rcases hbits with h | h | h | h <;> rw [h] <;> simp only [field, mceAux] <;> omega
  have hzero : (∀ p ∈ r.zero, field w.toNat p.1 p.2 = 0) ↔ ∀ p ∈ r.zero, field (mceValue w) p.1 p.2 = 0 := by
    refine forall₂_congr fun p hp => ?_
    have h32 : field w.toNat p.1 p.2 = field (mceValue w) p.1 p.2 := by
      refine field_eq_iff.2 fun k hk => ?_
      have hfits := (unitRowTable_fits _ (mem_unitRowTable.2 hr)).2 p hp
      rw [mceValue, field, pow_zero, Nat.div_one, Nat.testBit_mod_two_pow,
        decide_eq_true (show p.1 + k < 32 by omega), Bool.true_and]
    rw [h32]
  simp only [OpcodeRow.fields, Agrees, List.forall_mem_append, List.forall_mem_cons, List.forall_mem_map, haux, hzero]
  simp only [OpcodeRow.Admits, mceRsv, mceUnit, mceOp, List.not_mem_nil, false_implies, implies_true, and_true,
    eq_comm (b := u.code), eq_comm (b := r.op)]
  tauto

/-- Settles O3: the masks of the table cover the fields that the decoder tests, row by row. -/
theorem illegalWords : Obligations.IllegalWords := by
  unfold Obligations.IllegalWords
  have hrows : ∀ w : MceWord, (∃ i, decode w = some i) ↔ ∃ r ∈ opcodeRows, w &&& r.1 = r.2 := by
    intro w
    rw [decode_iff_row, opcodeRows_iff]
    constructor
    · rintro ⟨hrsv, u, r, hr, hu, h⟩
      exact ⟨u, r, hr, (agrees_fields_iff hr).2 ⟨hrsv, hu, h⟩⟩
    · rintro ⟨u, r, hr, h⟩
      obtain ⟨hrsv, hu, h⟩ := (agrees_fields_iff hr).1 h
      exact ⟨hrsv, u, r, hr, hu, h⟩
  refine ⟨hrows, fun s w hmode hstatus hw hno => ?_⟩
  have hnone : decode w = none := by
    refine Option.eq_none_iff_forall_ne_some.2 fun i hi => ?_
    obtain ⟨r, hr, h⟩ := (hrows w).1 ⟨i, hi⟩
    exact hno r hr h
  constructor
  · simp [enabled, hostEnabled, hostAccepted, hmode, hstatus, hw, hnone]
  · simp [agentStep, hostStep, programStep, hmode, hw, hnone]

/-- Settles O4: the decoder runs on the ten words. -/
theorem decodedWords : Obligations.DecodedWords := by
  unfold Obligations.DecodedWords
  decide

end Sys2Proof.Machine
end

section
/-! Proofs about every step: everything that a word, an entry of a control stack and a step of an agent can do, said once, and
then the invariant, the parameters and the history across a step. -/

namespace Sys2Proof.Machine

variable {s t u : State} {i : Instr}

/-! ## Everything a host step can do -/

/-- From `s` to `u` a host operation changes only the fences, the environment and the history. -/
def HostWord (s u : State) : Prop :=
  ∃ (pw fe : Option Nat) (e : Env) (hs : List Event), u = { s with
    path := { s.path with prevWrite := pw, fence := fe }, env := e, history := s.history ++ hs }

theorem hostWord_passFence (s : State) : HostWord s s.passFence := by
  unfold State.passFence
  split
  · exact ⟨s.path.prevWrite, s.path.fence, s.env, [], by simp⟩
  · exact ⟨none, none, s.env, [], by simp⟩

theorem hostWord_backToBack (s : State) : HostWord s s.backToBack := by
  unfold State.backToBack
  split
  · exact ⟨s.path.prevWrite, s.path.fence, s.env, [], by simp⟩
  · exact ⟨none, s.path.prevWrite, s.env, [], by simp⟩

theorem HostWord.record (h : HostWord s u) (e : Event) : HostWord s (u.record e) := by
  obtain ⟨pw, fe, ev, hs, rfl⟩ := h
  exact ⟨pw, fe, ev, hs ++ [e], by simp [State.record]⟩

theorem HostWord.answered (h : HostWord s u) (q : Oracle) : HostWord s (u.answered q) := by
  obtain ⟨pw, fe, ev, hs, rfl⟩ := h
  exact ⟨pw, fe, _, hs ++ [.answer q _], by simp only [State.answered, List.append_assoc]; rfl⟩

theorem HostWord.pollExpired (h : HostWord s u) (bounded : Bool) : HostWord s (pollExpired bounded u).2 := by
  cases bounded
  · exact h
  · exact h.answered _

/-- How a host operation leaves the program (R402, R404 to R407): the next word, the end of the run, or one word back. -/
def Goes (u t : State) : Prop := t = u.advance ∨ (∃ st, t = u.endRun st) ∨ t = u.stepBack

/-- Everything a host operation can do. -/
theorem exec_host_cases (hi : i.isHost = true) (h : exec i s = .next t) :
    t = s ∨ ∃ u, HostWord s u ∧ Goes u t := by
  have pass := hostWord_passFence s
  cases i with
  | hostPoll k p =>
    simp only [exec, execHostPoll] at h
    split at h
    · cases h
    · rename_i r _
      split_ifs at h <;> cases h
      · exact .inr ⟨_, pass, .inl rfl⟩
      · refine .inr ⟨_, pass.pollExpired (pollBounded r), ?_⟩
        unfold pollFailed
        dsimp only
        split
        · exact .inr (.inl ⟨_, rfl⟩)
        · exact .inr (.inr rfl)
  | hostCheck k p c =>
    simp only [exec, execHostCheck] at h
    split at h
    · cases h
    · split_ifs at h <;> cases h
      · exact .inr ⟨_, pass, .inl rfl⟩
      · exact .inr ⟨_, pass, .inr (.inl ⟨_, rfl⟩)⟩
  | hostHalt c =>
    simp only [exec, execHostHalt] at h
    split at h <;> cases h
    exact .inr ⟨_, pass, .inr (.inl ⟨_, rfl⟩)⟩
  | hostBarrier =>
    simp only [exec, execHostBarrier] at h
    split_ifs at h <;> cases h
    · exact .inr ⟨_, pass.record _, .inl rfl⟩
    · exact .inl rfl
  | hostB2b =>
    simp only [exec, execHostB2b] at h
    cases h
    exact .inr ⟨_, (hostWord_backToBack s).record _, .inl rfl⟩
  | _ => cases hi

/-- An operation is a write, a read or a host operation (R92). -/
theorem instr_kind (i : Instr) : i.isWrite = true ∨ i.isRead = true ∨ i.isHost = true := by
  cases i <;> simp [Instr.isWrite, Instr.isRead, Instr.isHost, Instr.unit]

theorem isWrite_of_isRead (h : i.isRead = true) : i.isWrite = false := by
  simp [Instr.isWrite, h]

theorem isHost_of_isRead (h : i.isRead = true) : i.isHost = false := by
  cases i <;> first | rfl | cases h

theorem isWrite_of_isHost (h : i.isHost = true) : i.isWrite = false := by
  simp [Instr.isWrite, h]

theorem isRead_of_isHost (h : i.isHost = true) : i.isRead = false := by
  cases i <;> first | rfl | cases h

theorem isHost_of_isWrite (h : i.isWrite = true) : i.isHost = false := by
  cases i <;> first | rfl | cases h

/-- A block operation of a host program is its issue, and then the next word (R401). -/
theorem exec_block (hi : i.isHost = false) (s : State) :
    exec i s = if accepts i s then toOutcome (mapOk State.advance (issue i s)) else .next s := by
  rcases instr_kind i with h | h | h
  · rw [exec_write s h, hostWrite, issue_write s h]
  · rw [exec_read s h, hostRead, issue_read s h]
  · rw [h] at hi
    cases hi

/-- Everything a word of a host program can do. -/
theorem exec_cases (h : exec i s = .next t) :
    t = s ∨ (i.isHost = false ∧ accepts i s = true ∧ ∃ u, issue i s = .ok u ∧ t = u.advance) ∨
      (i.isHost = true ∧ ∃ u, HostWord s u ∧ Goes u t) := by
  cases hi : i.isHost with
  | true => exact (exec_host_cases hi h).imp_right fun hu => .inr ⟨rfl, hu⟩
  | false =>
    rw [exec_block hi] at h
    split_ifs at h with ha
    · exact .inr (.inl ⟨rfl, ha, mapOk_cases (toOutcome_next h)⟩)
    · cases h
      exact .inl rfl

/-- Everything the issue of an operation can do (R80, R81). -/
theorem issue_cases (h : issue i s = .ok t) :
    (i.isHost = true ∧ t = s) ∨ accessFault s.cfg i = none ∧
      ((i.isWrite = true ∧ s.cfg.regOrder = .inOrder ∧ ∃ u, writeEffect i s = .ok u ∧ t = u.recordWrite i) ∨
       (i.isWrite = true ∧ s.cfg.regOrder = .postedUntilBarrier ∧ t = s.post i) ∨
       (i.isRead = true ∧ ∃ v u, readEffect i s = .ok (v, u) ∧ t = ((u.setLast v).record (.access i v)).passFence)) := by
  rcases instr_kind i with hw | hr | hh
  · rw [issue_write s hw] at h
    obtain ⟨hreach, ⟨hord, hu⟩ | ⟨hord, ht⟩⟩ := issueWrite_cases h
    · exact .inr ⟨hreach, .inl ⟨hw, hord, hu⟩⟩
    · exact .inr ⟨hreach, .inr (.inl ⟨hw, hord, ht⟩)⟩
  · rw [issue_read s hr] at h
    obtain ⟨hreach, hu⟩ := issueRead_cases h
    exact .inr ⟨hreach, .inr (.inr ⟨hr, hu⟩)⟩
  · simp only [issue, isWrite_of_isHost hh, isRead_of_isHost hh] at h
    cases h
    exact .inl ⟨hh, rfl⟩

theorem hostSide_pop (s : State) : HostSide s s.pop := (HostSide.refl s).pop

/-- Everything an entry of the control stack can do: a change of the driver side, or the issue of an accepted operation. -/
theorem microStep_cases {m : Micro} (h : microStep m s = .next t) :
    HostSide s t ∨ ∃ i, m = .op i ∧ accepts i s = true ∧ issue i s.pop = .ok t := by
  have hp := hostSide_pop s
  cases m with
  | op i =>
    simp only [microStep, microOp] at h
    split_ifs at h with hst ha
    · cases h; exact .inl hp
    · exact .inr ⟨i, rfl, ha, toOutcome_next h⟩
    · cases h; exact .inl (.refl s)
  | run p =>
    simp only [microStep, microRun] at h
    split_ifs at h
    · cases h; exact .inl hp
    · exact .inl (hp.trans (runProc_hostSide (toOutcome_next h)))
  | onFail p =>
    simp only [microStep] at h
    split_ifs at h <;> cases h
    · exact .inl hp
    · exact .inl ((hp.setStatus _).push _)
  | always p => cases h; exact .inl ((hp.setStatus _).push _)
  | restore st => cases h; exact .inl (hp.setStatus _)
  | combine st => cases h; exact .inl (HostSide.ite hp (hp.setStatus _))
  | closeBurst => cases h; exact .inl (hp.setBurst _ _)
  | ret => cases h; exact .inl (hp.setDrv _)

/-- Everything a host step in driver mode can do. -/
theorem driverStep_cases (h : driverStep s = .next t) :
    HostSide s t ∨ (∃ u st, HostSide s u ∧ t = u.endRun st) ∨ ∃ i, accepts i s = true ∧ issue i s.pop = .ok t := by
  unfold driverStep at h
  split at h
  · rcases microStep_cases h with hs | ⟨i, -, ha, hi⟩
    · exact .inl hs
    · exact .inr (.inr ⟨i, ha, hi⟩)
  · split at h
    · cases h
      unfold callsEnd
      split
      · exact .inr (.inl ⟨_, _, .refl s, rfl⟩)
      · exact .inl ((HostSide.refl s).setDrv _)
      · exact .inr (.inl ⟨_, _, (HostSide.refl s).setDrv _, rfl⟩)
      · exact .inr (.inl ⟨_, _, .refl s, rfl⟩)
    · split_ifs at h
      · cases h; exact .inr (.inl ⟨_, _, .refl s, rfl⟩)
      · unfold callStart at h
        split_ifs at h <;> cases h
        · exact .inl (((HostSide.refl s).setStatus _).push _)
        · exact .inl ((HostSide.refl s).setDrv _)

/-- Everything a host step can do: nothing, a word at an index of the program, or a step in driver mode. -/
theorem hostStep_cases (h : hostStep s = .next t) :
    t = s ∨ (∃ i, s.host.pc < s.host.program.length ∧ exec i s = .next t) ∨ driverStep s = .next t := by
  unfold hostStep at h
  split at h
  · unfold programStep at h
    split at h
    · cases h; exact .inl rfl
    · rename_i w hw
      split at h
      · cases h
      · exact .inr (.inl ⟨_, (List.getElem?_eq_some_iff.1 hw).1, h⟩)
  · exact .inr (.inr h)

/-- Everything a step of the machine can do (R410). -/
theorem step_cases (h : step s = .next t) :
    t = s ∨ t = s.turnTaken ∨ ∃ a, enabled a s = true ∧ agentStep a s.turnTaken = .next t := by
  unfold step at h
  split at h
  · cases h; exact .inl rfl
  · split_ifs at h with he
    · exact .inr (.inr ⟨_, he, h⟩)
    · cases h; exact .inr (.inl rfl)

/-! ## The invariant across a host step -/

/-- The invariant of an agent depends on its mode, its program, its index and its status, and an ended run keeps it. -/
theorem HostInv.of_fields {a b : HostAgent} (h : HostInv a) (hm : b.mode = a.mode) (hp : b.program = a.program)
    (hpc : b.pc = a.pc) (hst : b.status = a.status ∨ b.status ≠ none) : HostInv b where
  pc_in_program := by rw [hpc, hp]; exact h.pc_in_program
  run_over hmode hne hend := by
    rcases hst with hst | hst
    · rw [hst]
      exact h.run_over (by rwa [← hm]) (by rwa [← hp]) (by rwa [← hpc, ← hp])
    · exact hst

/-- A change of the host agent and its accesses in flight keeps the invariant when it keeps theirs. -/
theorem Inv.with_host (h : Inv s) {a : HostAgent} {p : RegPath} (ha : HostInv a) (hp : PathInv s.cfg p) (e : Env)
    (hs : List Event) (c : Sched) : Inv { s with host := a, path := p, env := e, history := hs, sched := c } :=
  ⟨h.i2c, h.bpi, h.latched_valid, h.presc_fits, hp, ha, h.domains, h.others⟩

theorem Inv.of_hostSide (h : Inv s) (w : HostSide s t) : Inv t where
  i2c := by rw [w.cfg, w.i2c]; exact h.i2c
  bpi := by rw [w.cfg, w.bpi]; exact h.bpi
  latched_valid := by rw [w.spi2]; exact h.latched_valid
  presc_fits := by rw [w.cfg, w.jtag]; exact h.presc_fits
  path := by rw [w.cfg, w.path]; exact h.path
  host := h.host.of_fields w.mode w.program w.pc (.inl w.status)
  domains := by rw [w.cfg, w.others]; exact h.domains
  others := by rw [w.cfg, w.others]; exact h.others

theorem Inv.turnTaken (h : Inv s) : Inv s.turnTaken := h.with_host h.host h.path _ _ _

theorem Inv.endRun (h : Inv s) (st : Status) : Inv (s.endRun st) :=
  h.with_host (a := { s.host with status := some st })
    (h.host.of_fields rfl rfl rfl (.inr (Option.some_ne_none st))) h.path _ _ _

/-- The next word is inside the program, or the run ends (R400). -/
theorem Inv.advance (h : Inv s) (hpc : s.host.pc < s.host.program.length) : Inv s.advance := by
  have hhost : HostInv s.advance.host := ⟨hpc, fun _ _ hend => by simp_all [State.advance]⟩
  exact h.with_host hhost h.path _ _ _

theorem Inv.stepBack (h : Inv s) (hpc : s.host.pc < s.host.program.length) : Inv s.stepBack :=
  have hhost : HostInv s.stepBack.host :=
    ⟨(Nat.sub_le _ _).trans hpc.le, fun _ _ hend => absurd hend (by simp [State.stepBack]; omega)⟩
  h.with_host hhost h.path _ _ _

/-- The fences are in no clause of the invariant. -/
theorem PathInv.with_fences {c : Config} {p : RegPath} (h : PathInv c p) (pw fe : Option Nat) :
    PathInv c { p with prevWrite := pw, fence := fe } :=
  ⟨h.in_order, h.posted_order, h.posted_old, h.posted_reach⟩

theorem Inv.of_hostWord (h : Inv s) (w : HostWord s u) : Inv u := by
  obtain ⟨pw, fe, e, hs, rfl⟩ := w
  exact h.with_host h.host (h.path.with_fences pw fe) _ _ _

theorem HostWord.host (w : HostWord s u) : u.host = s.host := by
  obtain ⟨pw, fe, e, hs, rfl⟩ := w
  rfl

/-- A write that is posted gets a new number and is one that reaches its register (R81). -/
theorem PathInv.post {c : Config} (h : PathInv c s.path) (ho : c.regOrder = .postedUntilBarrier) (hw : i.isWrite = true)
    (hreach : accessFault c i = none) : PathInv c (s.post i).path where
  in_order hin := by rw [ho] at hin; cases hin
  posted_order := by
    simp only [State.post_path, List.pairwise_append, List.pairwise_singleton, List.mem_singleton, forall_eq, true_and]
    exact ⟨h.posted_order, h.posted_old⟩
  posted_old := by
    simp only [State.post_path, List.forall_mem_append, List.forall_mem_singleton]
    exact ⟨fun w hin => (h.posted_old w hin).trans (Nat.lt_succ_self _), Nat.lt_succ_self _⟩
  posted_reach := by
    simp only [State.post_path, List.forall_mem_append, List.forall_mem_singleton]
    exact ⟨h.posted_reach, hw, hreach⟩

theorem hasRoom_of_accepts (h : accepts i s = true) : hasRoom i s = true := by
  unfold accepts at h
  exact (Bool.and_eq_true _ _ ▸ h).1

/-- The issue of an operation keeps the invariant and does not move the host in its program. -/
theorem issue_inv (h : issue i s = .ok t) (hroom : hasRoom i s = true) (hs : Inv s) :
    Inv t ∧ t.host.pc = s.host.pc ∧ t.host.program = s.host.program := by
  obtain ⟨-, rfl⟩ | ⟨hreach, ⟨hw, -, u, hu, rfl⟩ | ⟨hw, hord, rfl⟩ | ⟨-, v, u, hu, rfl⟩⟩ := issue_cases h
  · exact ⟨hs, rfl, rfl⟩
  · have hinv := writeEffect_inv hu hs hreach hroom hw
    have hhost := (writeEffect_within hu).host
    exact ⟨hinv.with_host hinv.host hinv.path _ _ _, by simp [hhost], by simp [hhost]⟩
  · exact ⟨hs.with_host hs.host (hs.path.post hord hw hreach) _ _ _, rfl, rfl⟩
  · have hinv := readEffect_inv hu hs
    have hhost := (readEffect_within hu).host
    have hlast : Inv ((u.setLast v).record (.access i v)) :=
      hinv.with_host (a := (u.setLast v).host) (hinv.host.of_fields rfl rfl rfl (.inl rfl)) hinv.path _ _ _
    exact ⟨hlast.of_hostWord (hostWord_passFence _), by simp [hhost], by simp [hhost]⟩

theorem exec_inv (h : exec i s = .next t) (hpc : s.host.pc < s.host.program.length) (hs : Inv s) : Inv t := by
  obtain rfl | ⟨-, ha, u, hu, rfl⟩ | ⟨-, u, hu, hgoes⟩ := exec_cases h
  · exact hs
  · obtain ⟨hinv, hpcu, hprog⟩ := issue_inv hu (hasRoom_of_accepts ha) hs
    exact hinv.advance (by rwa [hpcu, hprog])
  · have hinv := hs.of_hostWord hu
    have hpcu : u.host.pc < u.host.program.length := by rwa [hu.host]
    obtain rfl | ⟨st, rfl⟩ | rfl := hgoes
    · exact hinv.advance hpcu
    · exact hinv.endRun st
    · exact hinv.stepBack hpcu

theorem driverStep_inv (h : driverStep s = .next t) (hs : Inv s) : Inv t := by
  obtain hside | ⟨u, st, hside, rfl⟩ | ⟨i, ha, hi⟩ := driverStep_cases h
  · exact hs.of_hostSide hside
  · exact (hs.of_hostSide hside).endRun st
  · exact (issue_inv hi (hasRoom_of_accepts ha) (hs.of_hostSide (hostSide_pop s))).1

theorem hostStep_inv (h : hostStep s = .next t) (hs : Inv s) : Inv t := by
  obtain rfl | ⟨i, hpc, hi⟩ | hd := hostStep_cases h
  · exact hs
  · exact exec_inv hi hpc hs
  · exact driverStep_inv hd hs

/-! ## The invariant across a step of the register path and of every agent -/

theorem Inv.dropPosted (h : Inv s) (k : Nat) : Inv (s.dropPosted k) := by
  have hsub : List.Sublist (s.path.posted.eraseIdx k) s.path.posted := List.eraseIdx_sublist ..
  have hpath : PathInv s.cfg (s.dropPosted k).path :=
    { in_order := fun ho => by simp [State.dropPosted, h.path.in_order ho]
      posted_order := h.path.posted_order.sublist hsub
      posted_old := fun w hw => h.path.posted_old w (hsub.subset hw)
      posted_reach := fun w hw => h.path.posted_reach w (hsub.subset hw) }
  exact h.with_host h.host hpath _ _ _

/-- A posted write that the block performs was one that reaches its register, and it has room (R81). -/
theorem busStep_inv {k : Nat} (h : busStep k s = .ok t) (he : busEnabled k s = true) (hs : Inv s) : Inv t := by
  unfold busStep at h
  unfold busEnabled at he
  split at h
  · cases h; exact hs
  · rename_i w hw
    rw [hw] at he
    obtain ⟨u, hu, rfl⟩ := mapOk_cases h
    simp only [postedReady, Bool.and_eq_true] at he
    obtain ⟨-, hroom⟩ := he
    obtain ⟨hwrite, hreach⟩ := hs.path.posted_reach w (List.mem_of_getElem? hw)
    have hinv : Inv u := writeEffect_inv hu (hs.dropPosted k) hreach hroom hwrite
    exact hinv.with_host hinv.host hinv.path _ _ _

theorem swap_turnTaken (d : Nat) (s : State) : s.turnTaken.swap d = (s.swap d).turnTaken := by
  unfold State.swap
  simp only [State.turnTaken]
  split <;> rfl

/-- An enabled agent's step keeps the invariant. -/
theorem agentStep_inv {a : Agent} (h : agentStep a s.turnTaken = .next t) (he : enabled a s = true) (hs : Inv s) :
    Inv t := by
  have hturn := hs.turnTaken
  cases a with
  | host => exact hostStep_inv h hturn
  | i2c => cases h; exact i2cStep_inv hturn
  | bpi => exact bpiStep_inv (toOutcome_next h) he hturn
  | cpld => cases h; exact cpldStep_inv hturn
  | spi2 => exact spi2Step_inv (toOutcome_next h) hturn
  | jtag => cases h; exact jtagStep_inv hturn
  | bus k => exact busStep_inv (toOutcome_next h) he hturn
  | foreign d =>
    obtain ⟨u, hu, rfl⟩ := foreign_step h
    exact (hostStep_inv hu (hturn.swap d)).swap d
  | foreignBus d k =>
    obtain ⟨u, hu, rfl⟩ := foreignBus_step h
    have hready : busEnabled k (s.swap d) = true := ((Bool.and_eq_true _ _).mp he).2
    rw [swap_turnTaken] at hu
    exact (busStep_inv hu hready (hs.swap d).turnTaken).swap d

/-- Settles O48: a step is nothing, a turn taken, or the step of an enabled agent, and each keeps the invariant. -/
theorem invStep : Obligations.InvStep := by
  unfold Obligations.InvStep
  intro s t h hs
  obtain rfl | rfl | ⟨a, he, ha⟩ := step_cases h
  · exact hs
  · exact hs.turnTaken
  · exact agentStep_inv ha he hs

end Sys2Proof.Machine
end

section
/-! Proofs about the step of the machine: which agent it is the step of, which word it runs, and that it refuses nothing. -/

namespace Sys2Proof.Machine

variable {s t u : State} {i : Instr}

/-! ## No instruction is refused -/

/-- Settles O9: a block operation is the outcome of its issue, which is a state or a fault, and a host operation has no refusal. -/
theorem nothingRefused : Obligations.NothingRefused := by
  unfold Obligations.NothingRefused
  intro i s r
  cases hi : i.isHost with
  | false =>
    rw [exec_block hi]
    split
    · exact toOutcome_not_refused _ r
    · simp
  | true =>
    cases i with
    | hostPoll k p =>
      simp only [exec, execHostPoll]
      split
      · simp
      · split_ifs <;> simp
    | hostCheck k p c =>
      simp only [exec, execHostCheck]
      split
      · simp
      · split_ifs <;> simp
    | hostHalt c =>
      simp only [exec, execHostHalt]
      split <;> simp
    | hostBarrier =>
      simp only [exec, execHostBarrier]
      split <;> simp
    | hostB2b => simp [exec, execHostB2b]
    | _ => cases hi

/-! ## The agent of a step -/

theorem step_of_nextAgent {a : Agent} (h : nextAgent s = some a) :
    step s = if enabled a s then agentStep a s.turnTaken else .next s.turnTaken := by
  simp [step, h]

theorem nextAgent_of_turns {a : Agent} {rest : List Agent} (h : s.sched.turns = a :: rest) : nextAgent s = some a := by
  simp [nextAgent, h]

/-- With no turn listed, the scheduler chooses among the enabled agents, when there are any. -/
theorem nextAgent_of_no_turns (h : s.sched.turns = []) (hq : quiet s = false) :
    ∃ a ∈ enabledAgents s, nextAgent s = some a := by
  have hpos : 0 < (enabledAgents s).length := List.length_pos_iff.2 (by simpa [quiet] using hq)
  have hlt := Nat.mod_lt (Config.freeTurn s.sched.chosen) hpos
  exact ⟨_, List.getElem_mem hlt, by simp [nextAgent, h, hlt]⟩

/-- Settles O7, by what the turn list holds. -/
theorem stepChoices : Obligations.StepChoices := by
  unfold Obligations.StepChoices
  intro s
  refine ⟨fun h hq => ?_, fun h hq => ?_, fun a rest h he => ?_, fun a rest h he => ?_⟩
  · have hnone : enabledAgents s = [] := by simpa [quiet] using hq
    simp [step, nextAgent, h, hnone]
  · obtain ⟨a, ha, hn⟩ := nextAgent_of_no_turns h hq
    have he : enabled a s = true := (List.mem_filter.1 ha).2
    exact ⟨a, ha, by rw [step_of_nextAgent hn, if_pos he]⟩
  · rw [step_of_nextAgent (nextAgent_of_turns h), if_pos he]
  · rw [step_of_nextAgent (nextAgent_of_turns h), he]
    rfl

/-! ## The word of a host step -/

/-- In program mode the host's step runs the instruction that the word at `H.pc` decodes to (R401). -/
theorem hostStep_legal {w : MceWord} (hm : s.host.mode = .program) (hw : fetchWord s = some w) (hi : decode w = some i) :
    hostStep s = exec i s := by
  simp [hostStep, hm, programStep, hw, hi]

/-- In program mode the host's step faults on an illegal word (R91). -/
theorem hostStep_illegal {w : MceWord} (hm : s.host.mode = .program) (hw : fetchWord s = some w) (hi : decode w = none) :
    hostStep s = .fault (.illegal 91) := by
  simp [hostStep, hm, programStep, hw, hi]

theorem hostEnabled_legal {w : MceWord} (hm : s.host.mode = .program) (hst : s.host.status = none)
    (hw : fetchWord s = some w) (hi : decode w = some i) : enabled .host s = accepts i s := by
  simp [enabled, hostEnabled, hostAccepted, hm, hst, hw, hi]

theorem hostEnabled_illegal {w : MceWord} (hm : s.host.mode = .program) (hst : s.host.status = none)
    (hw : fetchWord s = some w) (hi : decode w = none) : enabled .host s = true := by
  simp [enabled, hostEnabled, hostAccepted, hm, hst, hw, hi]

/-- Settles O5. -/
theorem stepRunsDecoded : Obligations.StepRunsDecoded := by
  unfold Obligations.StepRunsDecoded
  intro s w hm hst hw hn
  rw [step_of_nextAgent hn]
  refine ⟨fun i hi ha => ?_, fun i hi ha => ?_, fun hi => ?_⟩
  · rw [hostEnabled_legal hm hst hw hi, if_pos ha]
    exact hostStep_legal hm hw hi
  · rw [hostEnabled_legal hm hst hw hi, ha]
    rfl
  · rw [hostEnabled_illegal hm hst hw hi, if_pos rfl]
    exact hostStep_illegal hm hw hi

/-! ## A word stored where the host fetches next -/

theorem placeWord_at (p : List MceWord) (pc : Nat) (w : MceWord) : (placeWord p pc w)[pc]? = some w := by
  have hlen : (p.take pc ++ List.replicate (pc - p.length) (encode .hostBarrier)).length = pc := by
    simp only [List.length_append, List.length_take, List.length_replicate]
    omega
  unfold placeWord
  rw [← List.append_assoc, List.getElem?_append_right hlen.le, hlen, Nat.sub_self]
  rfl

theorem placeWord_elsewhere {p : List MceWord} {pc j : Nat} (w : MceWord) (hj : j ≠ pc) (hp : j < p.length) :
    (placeWord p pc w)[j]? = p[j]? := by
  unfold placeWord
  by_cases h : j < pc
  · rw [List.getElem?_append_left (by simp only [List.length_take]; omega), List.getElem?_take_of_lt h]
  · have hlen : (List.replicate (pc - p.length) (encode .hostBarrier)) = [] := by
      rw [show pc - p.length = 0 by omega]
      rfl
    have hmin : min pc p.length = pc := by omega
    rw [List.getElem?_append_right (by simp only [List.length_take]; omega), hlen, List.nil_append, List.length_take, hmin,
      show j - pc = (j - pc - 1) + 1 by omega, List.getElem?_cons_succ, List.getElem?_drop]
    congr 1
    omega

/-- Whether the block accepts an operation depends on the parameters, the command FIFO and the posted writes only. -/
theorem accepts_congr (hc : t.cfg = s.cfg) (hb : t.bpi = s.bpi) (hp : t.path = s.path) : accepts i t = accepts i s := by
  have hroom : hasRoom i t = hasRoom i s := by
    unfold hasRoom
    rw [hc, hb]
  unfold accepts
  rw [hroom, hc, hp]

/-- Settles O6: the loaded word is at `H.pc`, and the turn is the host's. -/
theorem storedWordRuns : Obligations.StoredWordRuns := by
  unfold Obligations.StoredWordRuns
  intro s i hi
  have hload : s.withFetchWord 64 (encode i).toNat = s.withWord (encode i) := by
    unfold State.withFetchWord
    rw [Nat.mod_eq_of_lt (encode i).isLt, BitVec.ofNat_toNat, BitVec.setWidth_eq]
  rw [hload]
  have hfetch : fetchWord (s.withWord (encode i)) = some (encode i) := placeWord_at _ _ _
  refine ⟨rfl, fun j hj hp => placeWord_elsewhere _ hj hp, hfetch, fun ha => ?_⟩
  have ha' : accepts i (s.withWord (encode i)) = true := (accepts_congr rfl rfl rfl).trans ha
  exact (stepRunsDecoded _ _ rfl rfl hfetch (nextAgent_of_turns rfl)).1 i (decodeEncode i hi) ha'

/-! ## The faults of an access -/

/-- An access that cannot reach its register faults, whatever its unit holds. -/
theorem exec_accessFault {e : Fault} (hi : i.isHost = false) (ha : accepts i s = true) (hf : accessFault s.cfg i = some e) :
    exec i s = .fault e := by
  rw [exec_block hi, if_pos ha]
  rcases instr_kind i with h | h | h
  · simp [issue_write s h, issueWrite, hf]
  · simp [issue_read s h, issueRead, hf]
  · rw [h] at hi
    cases hi

/-- Past the bank check, the lock domain is checked before the address (R160, R438). -/
theorem accessFault_of_bank {c : Config} (hb : ∀ b, i.bank? = some b → b < c.i2cNumBanks) :
    accessFault c i = if i.unit ∈ c.ownUnits then (if (regAddr c i).isNone then some .badAddr else none)
      else some .lockDomain := by
  unfold accessFault
  cases h : i.bank? with
  | none => by_cases hu : i.unit ∈ c.ownUnits <;> simp [hu]
  | some b =>
    have hlt : ¬c.i2cNumBanks ≤ b := Nat.not_le.2 (hb b h)
    by_cases hu : i.unit ∈ c.ownUnits <;> simp [hlt, hu]

/-- Settles O8. -/
theorem accessFaults : Obligations.AccessFaults := by
  unfold Obligations.AccessFaults
  intro i s hi ha
  refine ⟨fun b hb hn => bankChecked hb hn ha, fun hb hu => exec_accessFault hi ha ?_, fun hb hu hr =>
    exec_accessFault hi ha ?_, fun hn => ?_⟩
  · rw [accessFault_of_bank hb, if_neg hu]
  · rw [accessFault_of_bank hb, if_pos hu, hr]
    rfl
  · obtain ⟨-, -, a, haddr⟩ := accessFault_none hn
    obtain ⟨e, he, -, hal, hlt, hl⟩ := regAddr_some haddr
    refine ⟨a, haddr, hal, hlt, fun v => ⟨toReal e.layout v, by simp [busAccess, haddr, he], ?_⟩⟩
    simp [modelValue, he, toModel_toReal hl]

end Sys2Proof.Machine
end

section
/-! Proofs about what a step leaves as it was: the parameters and the history, and the state of the units that are not its own. -/

namespace Sys2Proof.Machine

variable {s t u : State} {i : Instr}

/-! ## The parameters stay and the history grows -/

/-- From `s` to `t` no parameter changes and the history only grows. -/
def Grows (s t : State) : Prop := t.cfg = s.cfg ∧ s.history <+: t.history

theorem Grows.refl (s : State) : Grows s s := ⟨rfl, List.prefix_refl _⟩

theorem Grows.trans (h : Grows s t) (g : Grows t u) : Grows s u := ⟨g.1.trans h.1, h.2.trans g.2⟩

theorem Grows.record (h : Grows s t) (e : Event) : Grows s (t.record e) := h.trans ⟨rfl, List.prefix_append _ _⟩

theorem Within.grows {us : List UnitId} (h : Within us s t) : Grows s t := ⟨h.cfg, h.history⟩

theorem HostSide.grows (h : HostSide s t) : Grows s t := ⟨h.cfg, h.history⟩

theorem HostWord.grows (h : HostWord s u) : Grows s u := by
  obtain ⟨pw, fe, e, hs, rfl⟩ := h
  exact ⟨rfl, List.prefix_append _ _⟩

theorem Goes.grows (h : Goes u t) : Grows u t := by
  obtain rfl | ⟨st, rfl⟩ | rfl := h <;> exact Grows.refl _

theorem issue_grows (h : issue i s = .ok t) : Grows s t := by
  obtain ⟨-, rfl⟩ | ⟨-, ⟨-, -, u, hu, rfl⟩ | ⟨-, -, rfl⟩ | ⟨-, v, u, hu, rfl⟩⟩ := issue_cases h
  · exact .refl _
  · exact (writeEffect_within hu).grows.record _
  · exact .refl _
  · have hpass := (hostWord_passFence ((u.setLast v).record (.access i v))).grows
    exact ((readEffect_within hu).grows.record (.access i v)).trans hpass

theorem exec_grows (h : exec i s = .next t) : Grows s t := by
  obtain rfl | ⟨-, -, u, hu, rfl⟩ | ⟨-, u, hu, hgoes⟩ := exec_cases h
  · exact .refl _
  · exact (issue_grows hu).trans (Goes.grows (.inl rfl))
  · exact hu.grows.trans hgoes.grows

theorem driverStep_grows (h : driverStep s = .next t) : Grows s t := by
  obtain hside | ⟨u, st, hside, rfl⟩ | ⟨i, -, hi⟩ := driverStep_cases h
  · exact hside.grows
  · exact hside.grows
  · exact (hostSide_pop s).grows.trans (issue_grows hi)

theorem hostStep_grows (h : hostStep s = .next t) : Grows s t := by
  obtain rfl | ⟨i, -, hi⟩ | hd := hostStep_cases h
  · exact .refl _
  · exact exec_grows hi
  · exact driverStep_grows hd

/-- Everything the performing of a posted write does: its effect, without the write in flight, and its record. -/
theorem busStep_cases {k : Nat} (h : busStep k s = .ok t) :
    t = s ∨ ∃ w u, s.path.posted[k]? = some w ∧ writeEffect w.instr (s.dropPosted k) = .ok u ∧ t = u.recordWrite w.instr := by
  unfold busStep at h
  split at h
  · cases h
    exact .inl rfl
  · obtain ⟨u, hu, rfl⟩ := mapOk_cases h
    exact .inr ⟨_, u, ‹_›, hu, rfl⟩

theorem busStep_grows {k : Nat} (h : busStep k s = .ok t) : Grows s t := by
  obtain rfl | ⟨w, u, -, hu, rfl⟩ := busStep_cases h
  · exact .refl _
  · exact (show Grows s u from (writeEffect_within hu).grows).record _

theorem busStep_others {k : Nat} (h : busStep k s = .ok t) : t.others = s.others := by
  obtain rfl | ⟨w, u, -, hu, rfl⟩ := busStep_cases h
  · rfl
  · exact (writeEffect_within hu).others

/-- What another host agent does grows the history and, swapped back, keeps the parameters. -/
theorem grows_swap_back {d : Nat} (hd : s.hasDomain d = true) (ho : t.others = (s.swap d).others)
    (h : Grows (s.swap d) t) : Grows s (t.swap d) := by
  obtain ⟨o, us, hother, hunits⟩ := (s.hasDomain_iff).1 hd
  refine ⟨(swap_back_frame hother hunits h.1 ho).1, ?_⟩
  simpa using h.2

theorem agentStep_grows {a : Agent} (h : agentStep a s = .next t) (hd : ∀ d k, a = .foreign d ∨ a = .foreignBus d k →
    s.hasDomain d = true) : Grows s t := by
  cases a with
  | host => exact hostStep_grows h
  | i2c => cases h; exact (within_i2cStep s).grows
  | bpi => exact (within_bpiStep (toOutcome_next h)).grows
  | cpld => cases h; exact (within_cpldStep s).grows
  | spi2 => exact (within_spi2Step (toOutcome_next h)).grows
  | jtag => cases h; exact (within_jtagStep s).grows
  | bus k => exact busStep_grows (toOutcome_next h)
  | foreign d =>
    obtain ⟨u, hu, rfl⟩ := foreign_step h
    exact grows_swap_back (hd d 0 (.inl rfl)) (hostStep_own hu).others (hostStep_grows hu)
  | foreignBus d k =>
    obtain ⟨u, hu, rfl⟩ := foreignBus_step h
    exact grows_swap_back (hd d k (.inr rfl)) (busStep_others hu) (busStep_grows hu)

/-- An agent of another lock domain is enabled only where the machine has that domain. -/
theorem hasDomain_of_enabled {a : Agent} (he : enabled a s = true) {d k : Nat} (ha : a = .foreign d ∨ a = .foreignBus d k) :
    s.hasDomain d = true := by
  obtain rfl | rfl := ha <;> exact ((Bool.and_eq_true _ _).mp he).1

/-- Settles O49. -/
theorem configKept : Obligations.ConfigKept := by
  unfold Obligations.ConfigKept
  intro s t h
  obtain rfl | rfl | ⟨a, he, ha⟩ := step_cases h
  · exact Grows.refl _
  · exact Grows.refl _
  · exact (show Grows s s.turnTaken from Grows.refl s).trans (agentStep_grows ha fun d k hk => hasDomain_of_enabled he hk)

/-! ## A word changes its own unit -/

/-- Two states with the same fields are the same. -/
theorem state_eq (hcfg : t.cfg = s.cfg) (hi2c : t.i2c = s.i2c) (hbpi : t.bpi = s.bpi) (hcpld : t.cpld = s.cpld)
    (hspi2 : t.spi2 = s.spi2) (hspid : t.spid = s.spid) (hjtag : t.jtag = s.jtag) (htap : t.tap = s.tap)
    (hpath : t.path = s.path) (hhost : t.host = s.host) (hothers : t.others = s.others) (henv : t.env = s.env)
    (hsched : t.sched = s.sched) (hhist : t.history = s.history) : t = s := by
  cases s
  cases t
  subst_vars
  rfl

/-- From `s` to `t` a word changes unit `k`, the register path, `H.pc`, `H.last`, `H.status`, the environment and the history. -/
structure WordFrame (k : UnitId) (s t : State) : Prop where
  cfg : t.cfg = s.cfg
  i2c : k ≠ .i2c → t.i2c = s.i2c
  bpi : k ≠ .bpi → t.bpi = s.bpi
  cpld : k ≠ .bpi → t.cpld = s.cpld
  spi2 : k ≠ .spi2 → t.spi2 = s.spi2
  spid : k ≠ .spid → t.spid = s.spid
  jtag : k ≠ .jtag → t.jtag = s.jtag
  tap : t.tap = s.tap
  host : t.host = { s.host with
    pc := t.host.pc, last := t.host.last, lastKnown := t.host.lastKnown, status := t.host.status }
  others : t.others = s.others
  sched : t.sched = s.sched

theorem WordFrame.refl (k : UnitId) (s : State) : WordFrame k s s := by constructor <;> simp

theorem WordFrame.trans {k : UnitId} (h : WordFrame k s t) (g : WordFrame k t u) : WordFrame k s u where
  cfg := g.cfg.trans h.cfg
  i2c n := (g.i2c n).trans (h.i2c n)
  bpi n := (g.bpi n).trans (h.bpi n)
  cpld n := (g.cpld n).trans (h.cpld n)
  spi2 n := (g.spi2 n).trans (h.spi2 n)
  spid n := (g.spid n).trans (h.spid n)
  jtag n := (g.jtag n).trans (h.jtag n)
  tap := g.tap.trans h.tap
  host := by rw [g.host, h.host]
  others := g.others.trans h.others
  sched := g.sched.trans h.sched

/-- An effect within unit `k`, which leaves the TAP. -/
theorem Within.wordFrame {us : List UnitId} {k : UnitId} (h : Within us s t) (hk : ∀ x ∈ us, x = k) (htap : t.tap = s.tap) :
    WordFrame k s t := by
  have out : ∀ {x : UnitId}, k ≠ x → x ∉ us := fun hne hx => hne (hk _ hx).symm
  exact ⟨h.cfg, fun n => h.i2c (out n), fun n => h.bpi (out n), fun n => h.cpld (out n), fun n => h.spi2 (out n),
    fun n => h.spid (out n), fun n => h.jtag (out n), htap, by rw [h.host], h.others, h.sched⟩

/-- The TAP moves in no access (R341). -/
theorem writeEffect_tap (h : writeEffect i s = .ok t) : t.tap = s.tap := by
  by_cases hk : i.unit = .jtag
  · cases i with
    | jtagShift n tms tdi =>
      simp only [writeEffect, performJtagShift] at h
      split at h <;> cases h
      rfl
    | jtagWpresc n =>
      simp only [writeEffect, performJtagWpresc] at h
      split at h <;> cases h
      rfl
    | jtagRtdo => cases h; rfl
    | jtagRstat => cases h; rfl
    | _ => cases hk
  · exact (writeEffect_within h).tap (by simpa using Ne.symm hk)

/-- The units a read of `i` takes an entry out of are its own, and never JTAG. -/
theorem readUnits_own (i : Instr) :
    ∀ x ∈ (if i = .bpiRdata then [UnitId.bpi] else if i = .spi2Rdata then [.spi2] else []), x = i.unit := by
  intro x hx
  split_ifs at hx with h1 h2
  · rw [h1]; simpa [Instr.unit] using hx
  · rw [h2]; simpa [Instr.unit] using hx
  · simp at hx

theorem readEffect_tap {v : RegVal} (h : readEffect i s = .ok (v, t)) : t.tap = s.tap := by
  refine (readEffect_within h).tap fun hx => ?_
  split_ifs at hx <;> simp at hx

theorem HostWord.wordFrame (h : HostWord s u) (k : UnitId) : WordFrame k s u := by
  obtain ⟨pw, fe, e, hs, rfl⟩ := h
  constructor <;> simp

theorem Goes.wordFrame (h : Goes u t) (k : UnitId) : WordFrame k u t := by
  obtain rfl | ⟨st, rfl⟩ | rfl := h <;> constructor <;> simp

theorem issue_wordFrame (h : issue i s = .ok t) : WordFrame i.unit s t := by
  obtain ⟨-, rfl⟩ | ⟨-, ⟨-, -, u, hu, rfl⟩ | ⟨-, -, rfl⟩ | ⟨-, v, u, hu, rfl⟩⟩ := issue_cases h
  · exact .refl _ _
  · have hframe := (writeEffect_within hu).wordFrame (k := i.unit) (by simp) (writeEffect_tap hu)
    exact hframe.trans (by constructor <;> simp)
  · constructor <;> simp
  · have hframe := (readEffect_within hu).wordFrame (readUnits_own i) (readEffect_tap hu)
    have hrec : WordFrame i.unit u ((u.setLast v).record (.access i v)) := by constructor <;> simp
    exact (hframe.trans hrec).trans ((hostWord_passFence _).wordFrame _)

theorem exec_wordFrame (h : exec i s = .next t) : WordFrame i.unit s t := by
  obtain rfl | ⟨-, -, u, hu, rfl⟩ | ⟨-, u, hu, hgoes⟩ := exec_cases h
  · exact .refl _ _
  · exact (issue_wordFrame hu).trans (Goes.wordFrame (.inl rfl) _)
  · exact (hu.wordFrame _).trans (hgoes.wordFrame _)

/-! ## A unit step changes its own unit -/

@[simp] theorem flashRead_cpld (s : State) : (flashRead s).2.cpld = s.cpld := by rw [flashRead_eq]; rfl

@[simp] theorem flashStatus_cpld (s : State) : (flashStatus s).2.cpld = s.cpld := by rw [flashStatus_eq]; rfl

@[simp] theorem bpiFinish_cpld (c : RegVal) (s : State) : (bpiFinish c s).cpld = s.cpld := rfl

theorem bpiStatusStep_cpld (c : RegVal) (s : State) : (bpiStatusStep c s).cpld = s.cpld := by
  unfold bpiStatusStep
  dsimp only
  split_ifs <;> simp

theorem bpiBurstStep_cpld (c : RegVal) (s : State) : (bpiBurstStep c s).cpld = s.cpld := by
  unfold bpiBurstStep
  dsimp only
  split_ifs <;> simp

theorem bpiAccess_cpld (c : RegVal) (s : State) : (bpiAccess c s).cpld = s.cpld := by
  unfold bpiAccess
  split_ifs
  · rw [bpiBurstStep_cpld]
  · simp [bpiReadInc]
  · simp [bpiReadWord]
  · simp only [bpiFinish_cpld, bpiWriteWord]
    split_ifs <;> simp
  · rw [bpiStatusStep_cpld]
  · simp

/-- The engine leaves the CPLD as it is. -/
theorem bpiStep_cpld (h : bpiStep s = .ok t) : t.cpld = s.cpld := by
  obtain ⟨-, rfl⟩ | ⟨c, rest, -, ⟨-, rfl⟩ | ⟨-, -, rfl⟩ | ⟨-, -, -, rfl⟩⟩ := bpiStep_cases h
  · rfl
  · exact bpiStatusStep_cpld _ _
  · exact bpiBurstStep_cpld _ _
  · rw [bpiAccess_cpld, bpiLoad_assert]

/-- The CPLD leaves the engine as it is. -/
theorem cpldStep_bpi (s : State) : (cpldStep s).bpi = s.bpi := (within_cpldBank (us := []) s).bpi (by simp)

/-- A step of the host agent of another lock domain, in the machine as it was. -/
theorem foreign_frame {d : Nat} {us : List UnitId} (hd : s.hasDomain d = true) (hus : s.cfg.otherDomains[d]? = some us)
    (h : agentStep (.foreign d) s = .next t) :
    t.cfg = s.cfg ∧ t.host = s.host ∧ t.path = s.path ∧ t.sched = s.sched ∧
      t.others.length = s.others.length ∧ (∀ e, e ≠ d → t.others[e]? = s.others[e]?) ∧
      (.i2c ∉ us → t.i2c = s.i2c) ∧ (.bpi ∉ us → t.bpi = s.bpi ∧ t.cpld = s.cpld) ∧
      (.spi2 ∉ us → t.spi2 = { s.spi2 with dummyDone := t.spi2.dummyDone }) ∧ (.spid ∉ us → t.spid = s.spid) ∧
      (.jtag ∉ us → t.jtag = s.jtag ∧ t.tap = s.tap) := by
  obtain ⟨o, us', hother, hunits⟩ := (s.hasDomain_iff).1 hd
  obtain ⟨u, hu, rfl⟩ := foreign_step h
  have own := hostStep_own hu
  have hown : (s.swap d).cfg.ownUnits = us := by
    rw [s.swap_eq hother hus]
  obtain ⟨hcfg, hhost, hpath, hlen, hother'⟩ := swap_back_frame hother hunits own.cfg own.others
  obtain ⟨-, -, hsched, hi2c, hbpi, hcpld, hspi2, hspid, hjtag, htap⟩ := own
  simp only [hown, State.swap_i2c, State.swap_bpi, State.swap_cpld, State.swap_spi2, State.swap_spid, State.swap_jtag,
    State.swap_tap, State.swap_sched] at hsched hi2c hbpi hcpld hspi2 hspid hjtag htap
  simp only [State.swap_i2c, State.swap_bpi, State.swap_cpld, State.swap_spi2, State.swap_spid, State.swap_jtag,
    State.swap_tap, State.swap_sched]
  exact ⟨hcfg, hhost, hpath, hsched, hlen, hother', hi2c, fun n => ⟨hbpi n, hcpld n⟩, hspi2, hspid,
    fun n => ⟨hjtag n, htap n⟩⟩

/-- Settles O50. -/
theorem unitsWriteOwnState : Obligations.UnitsWriteOwnState := by
  unfold Obligations.UnitsWriteOwnState
  intro s t
  refine ⟨fun i h => ?_, fun h => ?_, fun h => ?_, fun h => ?_, fun h => ?_, fun h => ?_, fun d us he h hus =>
    foreign_frame (hasDomain_of_enabled (k := 0) he (.inl rfl)) hus h⟩
  · have frame := exec_wordFrame h
    have keep : ∀ {α : Type} {k : UnitId} {x y : α}, (i.unit ≠ k → x = y) → x = if i.unit = k then x else y := by
      intro α k x y hxy
      by_cases hk : i.unit = k
      · rw [if_pos hk]
      · rw [if_neg hk, hxy hk]
    exact state_eq frame.cfg (keep frame.i2c) (keep frame.bpi) (keep frame.cpld) (keep frame.spi2) (keep frame.spid)
      (keep frame.jtag) frame.tap rfl frame.host frame.others rfl frame.sched rfl
  · cases h
    have w := within_i2cStep s
    exact state_eq w.cfg rfl (w.bpi (by decide)) (w.cpld (by decide)) (w.spi2 (by decide)) (w.spid (by decide))
      (w.jtag (by decide)) (w.tap (by decide)) w.path w.host w.others rfl w.sched rfl
  · have hstep := toOutcome_next h
    have hcpld := bpiStep_cpld hstep
    have w := within_bpiStep hstep
    exact state_eq w.cfg (w.i2c (by decide)) rfl hcpld (w.spi2 (by decide)) (w.spid (by decide))
      (w.jtag (by decide)) (w.tap (by decide)) w.path w.host w.others rfl w.sched rfl
  · cases h
    have w := within_cpldStep s
    exact state_eq w.cfg (w.i2c (by decide)) (cpldStep_bpi s) rfl (w.spi2 (by decide)) (w.spid (by decide))
      (w.jtag (by decide)) (w.tap (by decide)) w.path w.host w.others rfl w.sched rfl
  · have w := within_spi2Step (toOutcome_next h)
    exact state_eq w.cfg (w.i2c (by decide)) (w.bpi (by decide)) (w.cpld (by decide)) rfl (w.spid (by decide))
      (w.jtag (by decide)) (w.tap (by decide)) w.path w.host w.others rfl w.sched rfl
  · cases h
    have w := within_jtagStep s
    exact state_eq w.cfg (w.i2c (by decide)) (w.bpi (by decide)) (w.cpld (by decide)) (w.spi2 (by decide))
      (w.spid (by decide)) rfl rfl w.path w.host w.others rfl w.sched rfl

/-! ## The side effects of reads -/

/-- What a read takes: the head of its FIFO, for the two reads of one. -/
theorem readEffect_bpi {v : RegVal} (h : readEffect i s = .ok (v, t)) :
    t.bpi = { s.bpi with rdq := if i = .bpiRdata then s.bpi.rdq.tail else s.bpi.rdq } := by
  by_cases hi : i = .bpiRdata
  · subst hi
    simp only [readEffect, readBpiData, drawBit_eq] at h
    split at h <;> cases h
    · rename_i hq
      have htail : s.bpi.rdq.tail = s.bpi.rdq := by rw [hq]; rfl
      rw [if_pos rfl, htail]
      rfl
    · rename_i w rest hq
      simp [hq]
  · rw [(readEffect_within h).bpi (by split_ifs <;> simp), if_neg hi]

theorem readEffect_spi2 {v : RegVal} (h : readEffect i s = .ok (v, t)) :
    t.spi2 = { s.spi2 with rdq := if i = .spi2Rdata then s.spi2.rdq.tail else s.spi2.rdq } := by
  by_cases hi : i = .spi2Rdata
  · subst hi
    simp only [readEffect, readSpi2Data] at h
    split at h <;> cases h
    rename_i hq
    simp [hq]
  · rw [(readEffect_within h).spi2 (by split_ifs <;> simp), if_neg hi]

/-- Settles O52. -/
theorem readSideEffects : Obligations.ReadSideEffects := by
  unfold Obligations.ReadSideEffects
  intro i s t hi ha h
  rw [exec_read s hi, hostRead, if_pos ha] at h
  obtain ⟨u', hu', rfl⟩ := mapOk_cases (toOutcome_next h)
  obtain ⟨-, v, u, hu, rfl⟩ := issueRead_cases hu'
  have w := readEffect_within hu
  have hcpld : u.cpld = s.cpld := by
    by_cases hk : i = .bpiRdata
    · subst hk
      simp only [readEffect, readBpiData, drawBit_eq] at hu
      split at hu <;> cases hu <;> rfl
    · exact w.cpld (by split_ifs <;> simp)
  refine state_eq ?_ ?_ ?_ ?_ ?_ ?_ ?_ ?_ rfl ?_ ?_ rfl ?_ rfl
  · simp [w.cfg]
  · simp [w.i2c (by split_ifs <;> simp)]
  · simp [readEffect_bpi hu]
  · simp [hcpld]
  · simp [readEffect_spi2 hu]
  · simp [w.spid (by split_ifs <;> simp)]
  · simp [w.jtag (by split_ifs <;> simp)]
  · simp [readEffect_tap hu]
  · simp [w.host, afterWord]
  · simp [w.others]
  · simp [w.sched]

/-! ## A block operation of a driver procedure -/

/-- Settles O53: both are the issue of the operation on the state without the entry. -/
theorem driverOpMatchesProgram : Obligations.DriverOpMatchesProgram := by
  unfold Obligations.DriverOpMatchesProgram
  intro i rest s hi hstack hst
  have hstep : driverStep s = if accepts i s then toOutcome (issue i s.pop) else .next s := by
    simp [driverStep, hstack, microStep, microOp, hst]
  have hpop : s.pop = { s with host := { s.host with drv := { s.host.drv with stack := rest } } } := by
    simp [State.pop, State.setDrv, hstack]
  refine ⟨fun ha => by rw [hstep, ha]; rfl, fun ha => ?_⟩
  have ha' : accepts i s.pop = true := (accepts_congr rfl rfl rfl).trans ha
  rw [← hpop, exec_block hi, if_pos ha', hstep, if_pos ha]
  cases issue i s.pop <;> rfl

end Sys2Proof.Machine
end

section
/-! The independence of the units (20_memory.md), for reads: every word and every unit step commutes with replacing the state of
another unit. `graft j x` takes unit `j` from `x`. -/

namespace Sys2Proof.Machine

/-- The machine `s` with the state of unit `j` that `x` has: with BPI its CPLD, with JTAG the TAP. -/
def graft (j : UnitId) (x s : State) : State :=
  match j with
  | .i2c => { s with i2c := x.i2c }
  | .bpi => { s with bpi := x.bpi, cpld := x.cpld }
  | .spi2 => { s with spi2 := x.spi2 }
  | .spid => { s with spid := x.spid }
  | .jtag => { s with jtag := x.jtag, tap := x.tap }
  | .host => s

variable {i : Instr} {j : UnitId} {s x : State}

/-! ## What a graft leaves -/

@[simp] theorem graft_cfg : (graft j x s).cfg = s.cfg := by cases j <;> rfl
@[simp] theorem graft_path : (graft j x s).path = s.path := by cases j <;> rfl
@[simp] theorem graft_host : (graft j x s).host = s.host := by cases j <;> rfl
@[simp] theorem graft_env : (graft j x s).env = s.env := by cases j <;> rfl

theorem graft_i2c (h : j ≠ .i2c) : (graft j x s).i2c = s.i2c := by cases j <;> trivial
theorem graft_bpi (h : j ≠ .bpi) : (graft j x s).bpi = s.bpi := by cases j <;> trivial
theorem graft_cpld (h : j ≠ .bpi) : (graft j x s).cpld = s.cpld := by cases j <;> trivial
theorem graft_spi2 (h : j ≠ .spi2) : (graft j x s).spi2 = s.spi2 := by cases j <;> trivial
theorem graft_spid (h : j ≠ .spid) : (graft j x s).spid = s.spid := by cases j <;> trivial
theorem graft_jtag (h : j ≠ .jtag) : (graft j x s).jtag = s.jtag := by cases j <;> trivial
theorem graft_tap (h : j ≠ .jtag) : (graft j x s).tap = s.tap := by cases j <;> trivial

/-! ## Updates that commute with a graft -/

theorem setI2c_graft (h : j ≠ .i2c) (u : I2cUnit) : { graft j x s with i2c := u } = graft j x { s with i2c := u } := by
  cases j <;> trivial

theorem setBpi_graft (h : j ≠ .bpi) (u : BpiUnit) : { graft j x s with bpi := u } = graft j x { s with bpi := u } := by
  cases j <;> trivial

theorem setCpld_graft (h : j ≠ .bpi) (u : Cpld) : { graft j x s with cpld := u } = graft j x { s with cpld := u } := by
  cases j <;> trivial

theorem setSpi2_graft (h : j ≠ .spi2) (u : Spi2Unit) :
    { graft j x s with spi2 := u } = graft j x { s with spi2 := u } := by
  cases j <;> trivial

theorem setSpid_graft (h : j ≠ .spid) (u : SpidUnit) :
    { graft j x s with spid := u } = graft j x { s with spid := u } := by
  cases j <;> trivial

theorem setJtag_graft (h : j ≠ .jtag) (u : JtagUnit) :
    { graft j x s with jtag := u } = graft j x { s with jtag := u } := by
  cases j <;> trivial

theorem setTap_graft (h : j ≠ .jtag) (u : TapState) : { graft j x s with tap := u } = graft j x { s with tap := u } := by
  cases j <;> trivial

@[simp] theorem nextAnswer_graft (q : Oracle) : (graft j x s).nextAnswer q = s.nextAnswer q := by cases j <;> rfl
@[simp] theorem answered_graft (q : Oracle) : (graft j x s).answered q = graft j x (s.answered q) := by cases j <;> rfl
@[simp] theorem record_graft (e : Event) : (graft j x s).record e = graft j x (s.record e) := by cases j <;> rfl
@[simp] theorem recordWrite_graft : (graft j x s).recordWrite i = graft j x (s.recordWrite i) := by cases j <;> rfl
@[simp] theorem setLast_graft (v : RegVal) : (graft j x s).setLast v = graft j x (s.setLast v) := by cases j <;> rfl
@[simp] theorem advance_graft : (graft j x s).advance = graft j x s.advance := by cases j <;> rfl
@[simp] theorem endRun_graft (st : Status) : (graft j x s).endRun st = graft j x (s.endRun st) := by cases j <;> rfl
@[simp] theorem stepBack_graft : (graft j x s).stepBack = graft j x s.stepBack := by cases j <;> rfl
@[simp] theorem post_graft : (graft j x s).post i = graft j x (s.post i) := by cases j <;> rfl

@[simp] theorem passFence_graft : (graft j x s).passFence = graft j x s.passFence := by
  unfold State.passFence
  rw [graft_cfg]
  split
  · rfl
  · cases j <;> rfl

@[simp] theorem backToBack_graft : (graft j x s).backToBack = graft j x s.backToBack := by
  unfold State.backToBack
  rw [graft_cfg]
  split
  · rfl
  · cases j <;> rfl

theorem graft_ite (c : Prop) [Decidable c] (a b : State) :
    (if c then graft j x a else graft j x b) = graft j x (if c then a else b) := by
  split <;> rfl

/-- Apply a state change to the state a read leaves. -/
def mapRead (g : State → State) : Except Fault (RegVal × State) → Except Fault (RegVal × State)
  | .ok r => .ok (r.1, g r.2)
  | .error e => .error e

/-! ## I2C -/

theorem setBusy_graft (h : j ≠ .i2c) (b : Nat) (v : Bool) : (graft j x s).setBusy b v = graft j x (s.setBusy b v) := by
  unfold State.setBusy
  rw [graft_i2c h, setI2c_graft h]

theorem setEnable_graft (h : j ≠ .i2c) (e : Bool) : (graft j x s).setEnable e = graft j x (s.setEnable e) := by
  unfold State.setEnable
  rw [graft_i2c h, setI2c_graft h]

theorem endTransfer_graft (h : j ≠ .i2c) : (graft j x s).endTransfer = graft j x s.endTransfer := by
  unfold State.endTransfer
  rw [graft_i2c h, setI2c_graft h]

theorem redrawBusy_graft (h : j ≠ .i2c) (b : Nat) : redrawBusy b (graft j x s) = graft j x (redrawBusy b s) := by
  rw [redrawBusy_eq, redrawBusy_eq, answered_graft, nextAnswer_graft, setBusy_graft h]

theorem redrawBanks_graft (h : j ≠ .i2c) (n b : Nat) : redrawBanks n b (graft j x s) = graft j x (redrawBanks n b s) := by
  induction n generalizing b s with
  | zero => rfl
  | succ n ih => rw [redrawBanks, redrawBusy_graft h, ih, redrawBanks]

theorem abandonTransfer_graft (h : j ≠ .i2c) : abandonTransfer (graft j x s) = graft j x (abandonTransfer s) := by
  unfold abandonTransfer
  rw [graft_i2c h, endTransfer_graft h]
  split
  · rw [redrawBusy_graft h]
  · rfl

theorem performI2cWctrl_graft (h : j ≠ .i2c) (e : Bool) :
    performI2cWctrl e (graft j x s) = mapOk (graft j x) (performI2cWctrl e s) := by
  unfold performI2cWctrl
  rw [graft_i2c h, graft_cfg, setEnable_graft h, redrawBanks_graft h, abandonTransfer_graft h, graft_ite, graft_ite, mapOk_ok]

theorem startTransfer_graft (h : j ≠ .i2c) (op : I2cOp) :
    startTransfer op (graft j x s) = mapOk (graft j x) (startTransfer op s) := by
  unfold startTransfer
  rw [graft_i2c h]
  split
  · rfl
  · rw [setI2c_graft h, mapOk_ok]

theorem performI2cWpreLo_graft (h : j ≠ .i2c) (v : Byte) :
    performI2cWpreLo v (graft j x s) = mapOk (graft j x) (performI2cWpreLo v s) := by
  unfold performI2cWpreLo
  rw [graft_i2c h, setI2c_graft h]
  split <;> rfl

theorem performI2cWpreHi_graft (h : j ≠ .i2c) (v : Byte) :
    performI2cWpreHi v (graft j x s) = mapOk (graft j x) (performI2cWpreHi v s) := by
  unfold performI2cWpreHi
  rw [graft_i2c h, setI2c_graft h]
  split <;> rfl

theorem performI2cWrite_graft (h : j ≠ .i2c) (b : Nat) (d : Byte) (sta sto : Bool) :
    performI2cWrite b d sta sto (graft j x s) = mapOk (graft j x) (performI2cWrite b d sta sto s) := by
  unfold performI2cWrite
  rw [startTransfer_graft h]
  cases startTransfer (.write b d sta sto) s with
  | error e => rfl
  | ok t => simp only [mapOk_ok, graft_i2c h, setI2c_graft h]

theorem i2cStep_graft (h : j ≠ .i2c) : i2cStep (graft j x s) = graft j x (i2cStep s) := by
  have hstart : ∀ (t : State) (sta : Bool) (b : Nat), startIf sta b (graft j x t) = graft j x (startIf sta b t) := by
    intro t sta b
    rw [startIf_eq, startIf_eq, graft_i2c h, setI2c_graft h]
  have hstop : ∀ (t : State) (sto : Bool) (b : Nat), stopIf sto b (graft j x t) = graft j x (stopIf sto b t) := by
    intro t sto b
    rw [stopIf_eq, stopIf_eq, graft_i2c h, setI2c_graft h]
  unfold i2cStep
  rw [graft_i2c h]
  split
  · unfold completeI2cWrite ackOf
    rw [graft_i2c h, hstart]
    split_ifs <;>
      simp only [drawBit_eq, nextAnswer_graft, answered_graft, graft_i2c h, setI2c_graft h, hstop, endTransfer_graft h,
        record_graft]
  · unfold completeI2cRead readByteOf
    rw [graft_i2c h, hstart]
    split_ifs <;>
      simp only [drawByte_eq, nextAnswer_graft, answered_graft, graft_i2c h, setI2c_graft h, hstop, endTransfer_graft h,
        record_graft]
  · unfold completeI2cStop
    rw [setBusy_graft h, endTransfer_graft h, record_graft]
  · rfl

/-! ## BPI and the CPLD -/

theorem readBpiData_graft (h : j ≠ .bpi) : readBpiData (graft j x s) = mapRead (graft j x) (readBpiData s) := by
  unfold readBpiData
  simp only [drawBit_eq, nextAnswer_graft, answered_graft, graft_bpi h, graft_cfg]
  split
  · rfl
  · cases j <;> trivial

theorem readBpiBank_graft (h : j ≠ .bpi) : readBpiBank (graft j x s) = mapRead (graft j x) (readBpiBank s) := by
  unfold readBpiBank
  simp only [drawByte_eq, nextAnswer_graft, answered_graft, graft_cpld h, graft_cfg]
  split <;> rfl

theorem cpldBank_graft (h : j ≠ .bpi) : cpldBank (graft j x s) = ((cpldBank s).1, graft j x (cpldBank s).2) := by
  unfold cpldBank
  simp only [graft_cpld h, graft_cfg, drawByte_eq, drawBit_eq]
  by_cases hknown : s.cpld.bankRegKnown <;> by_cases hrel : s.cfg.bpiCpldReliable <;>
    simp only [hknown, hrel, if_true, if_false, Bool.false_eq_true, nextAnswer_graft, answered_graft]

theorem cpldStep_graft (h : j ≠ .bpi) : cpldStep (graft j x s) = graft j x (cpldStep s) := by
  simp only [cpldStep, cpldBank_graft h]
  rw [graft_cpld h, setCpld_graft h, record_graft]

theorem flashRead_graft (h : j ≠ .bpi) : flashRead (graft j x s) = ((flashRead s).1, graft j x (flashRead s).2) := by
  simp only [flashRead_eq, graft_bpi h, graft_cpld h, graft_cfg, nextAnswer_graft, answered_graft]

theorem flashStatus_graft (h : j ≠ .bpi) :
    flashStatus (graft j x s) = ((flashStatus s).1, graft j x (flashStatus s).2) := by
  simp only [flashStatus_eq, graft_bpi h, graft_cpld h, graft_cfg, nextAnswer_graft, answered_graft]

theorem pushWord_graft (h : j ≠ .bpi) (w : Half) : (graft j x s).pushWord w = graft j x (s.pushWord w) := by
  unfold State.pushWord
  rw [graft_bpi h, setBpi_graft h]

theorem bpiFinish_graft (h : j ≠ .bpi) (c : RegVal) : bpiFinish c (graft j x s) = graft j x (bpiFinish c s) := by
  unfold bpiFinish
  rw [graft_bpi h, setBpi_graft h, record_graft]

theorem bpiStatusStep_graft (h : j ≠ .bpi) (c : RegVal) : bpiStatusStep c (graft j x s) = graft j x (bpiStatusStep c s) := by
  unfold bpiStatusStep
  simp only [flashStatus_graft h, pushWord_graft h, graft_bpi h, setBpi_graft h, bpiFinish_graft h, graft_ite]

theorem bpiBurstStep_graft (h : j ≠ .bpi) (c : RegVal) : bpiBurstStep c (graft j x s) = graft j x (bpiBurstStep c s) := by
  have hmoved := setBpi_graft (s := s) (x := x) h
  unfold bpiBurstStep
  simp only [graft_bpi h, graft_cfg] at hmoved ⊢
  rw [hmoved]
  simp only [flashRead_graft h, pushWord_graft h, graft_bpi h, bpiFinish_graft h, graft_ite]

theorem bpiReadWord_graft (h : j ≠ .bpi) : bpiReadWord (graft j x s) = graft j x (bpiReadWord s) := by
  unfold bpiReadWord
  simp only [flashRead_graft h, pushWord_graft h, graft_bpi h, setBpi_graft h]

theorem bpiReadInc_graft (h : j ≠ .bpi) : bpiReadInc (graft j x s) = graft j x (bpiReadInc s) := by
  have hmoved := setBpi_graft (s := s) (x := x) h
  unfold bpiReadInc
  simp only [graft_bpi h, graft_cfg] at hmoved ⊢
  rw [hmoved]
  simp only [flashRead_graft h, pushWord_graft h, graft_bpi h, setBpi_graft h]

theorem bpiWriteWord_graft (h : j ≠ .bpi) (c : RegVal) : bpiWriteWord c (graft j x s) = graft j x (bpiWriteWord c s) := by
  unfold bpiWriteWord
  by_cases hinc : cmdInc c <;> by_cases hcs : s.bpi.cs <;>
    simp only [hinc, hcs, if_true, if_false, graft_bpi h, graft_cpld h, Bool.false_eq_true] <;> cases j <;> trivial

theorem bpiAssert_graft (h : j ≠ .bpi) (c : RegVal) : bpiAssert c (graft j x s) = graft j x (bpiAssert c s) := by
  unfold bpiAssert
  rw [graft_bpi h, setBpi_graft h, graft_ite]

theorem bpiLoad_graft (h : j ≠ .bpi) (c : RegVal) : bpiLoad c (graft j x s) = graft j x (bpiLoad c s) := by
  unfold bpiLoad
  rw [graft_bpi h, setBpi_graft h, graft_ite]

theorem bpiAccess_graft (h : j ≠ .bpi) (c : RegVal) : bpiAccess c (graft j x s) = graft j x (bpiAccess c s) := by
  unfold bpiAccess
  simp only [graft_bpi h, setBpi_graft h, bpiBurstStep_graft h, bpiReadInc_graft h, bpiReadWord_graft h, graft_ite,
    bpiFinish_graft h, bpiWriteWord_graft h, bpiStatusStep_graft h]

theorem bpiStart_graft (h : j ≠ .bpi) (c : RegVal) :
    bpiStart c (graft j x s) = mapOk (graft j x) (bpiStart c s) := by
  have hfault : bpiStartFault c (graft j x s) = bpiStartFault c s := by
    unfold bpiStartFault
    rw [graft_bpi h, graft_cfg]
  unfold bpiStart
  rw [hfault, bpiAssert_graft h, bpiLoad_graft h, bpiAccess_graft h]
  split <;> rfl

theorem bpiStep_graft (h : j ≠ .bpi) : bpiStep (graft j x s) = mapOk (graft j x) (bpiStep s) := by
  unfold bpiStep
  rw [graft_bpi h]
  split
  · rfl
  · rw [bpiStatusStep_graft h, bpiBurstStep_graft h, bpiStart_graft h]
    split_ifs <;> rfl

/-! ## SPI-v2 -/

theorem readSpi2Ctrl_graft (h : j ≠ .spi2) : readSpi2Ctrl (graft j x s) = mapRead (graft j x) (readSpi2Ctrl s) := by
  unfold readSpi2Ctrl
  simp only [graft_spi2 h, draw_eq, nextAnswer_graft, answered_graft]
  split <;> rfl

theorem readSpi2Data_graft (h : j ≠ .spi2) : readSpi2Data (graft j x s) = mapRead (graft j x) (readSpi2Data s) := by
  unfold readSpi2Data
  simp only [graft_spi2 h, setSpi2_graft h]
  split <;> rfl

theorem spi2WriteBytes_graft (ctl : Spi2Ctl) (txd : RegVal) (d : Bool) (n k : Nat) :
    spi2WriteBytes ctl txd d n k (graft j x s) = graft j x (spi2WriteBytes ctl txd d n k s) := by
  induction n generalizing k s with
  | zero => rfl
  | succ n ih => rw [spi2WriteBytes, record_graft, ih, spi2WriteBytes]

theorem spi2ReadByte_graft (ctl : Spi2Ctl) (d : Bool) :
    spi2ReadByte ctl d (graft j x s) = ((spi2ReadByte ctl d s).1, graft j x (spi2ReadByte ctl d s).2) := by
  unfold spi2ReadByte
  simp only [graft_cfg, drawByte_eq, nextAnswer_graft, answered_graft]
  split <;> rfl

theorem spi2ReadBytes_graft (ctl : Spi2Ctl) (d : Bool) (n k : Nat) (e : RegVal) :
    spi2ReadBytes ctl d n k e (graft j x s) =
      ((spi2ReadBytes ctl d n k e s).1, graft j x (spi2ReadBytes ctl d n k e s).2) := by
  induction n generalizing k e s with
  | zero => rfl
  | succ n ih => simp only [spi2ReadBytes, spi2ReadByte_graft, ih]

theorem spi2ReadAccess_graft (h : j ≠ .spi2) (ctl : Spi2Ctl) (d : Bool) :
    spi2ReadAccess ctl d (graft j x s) = graft j x (spi2ReadAccess ctl d s) := by
  unfold spi2ReadAccess
  simp only [spi2ReadBytes_graft, graft_spi2 h, setSpi2_graft h, record_graft]

theorem spi2Perform_graft (h : j ≠ .spi2) (a : Spi2Access) :
    spi2Perform a (graft j x s) = graft j x (spi2Perform a s) := by
  unfold spi2Perform
  simp only [graft_spi2 h, setSpi2_graft h, spi2ReadAccess_graft h, spi2WriteBytes_graft, record_graft, graft_ite]

theorem spi2Step_graft (h : j ≠ .spi2) : spi2Step (graft j x s) = mapOk (graft j x) (spi2Step s) := by
  unfold spi2Step
  rw [graft_spi2 h]
  split
  · rfl
  · rw [setSpi2_graft h, spi2Perform_graft h]
    split <;> rfl

/-! ## SPI-dual -/

theorem performSpidWctrl_graft (h : j ≠ .spid) (c : SpidCtl) :
    performSpidWctrl c (graft j x s) = mapOk (graft j x) (performSpidWctrl c s) := by
  unfold performSpidWctrl spidEdge
  simp only [graft_spid h, record_graft, graft_ite, setSpid_graft h, mapOk_ok]

theorem performSpidWfsel_graft (h : j ≠ .spid) (v : BitVec 4) :
    performSpidWfsel v (graft j x s) = mapOk (graft j x) (performSpidWfsel v s) := by
  unfold performSpidWfsel
  rw [graft_spid h, setSpid_graft h, record_graft, mapOk_ok]

theorem spidLine_graft (h : j ≠ .spid) (k : Nat) :
    spidLine k (graft j x s) = ((spidLine k s).1, graft j x (spidLine k s).2) := by
  unfold spidLine
  simp only [graft_spid h, drawBit_eq, nextAnswer_graft, answered_graft]
  split <;> rfl

theorem readSpidIn_graft (h : j ≠ .spid) : readSpidIn (graft j x s) = mapRead (graft j x) (readSpidIn s) := by
  simp only [readSpidIn, spidLine_graft h, mapRead]

/-! ## JTAG -/

theorem performJtagShift_graft (h : j ≠ .jtag) (n : Nat) (tms tdi : Half) :
    performJtagShift n tms tdi (graft j x s) = mapOk (graft j x) (performJtagShift n tms tdi s) := by
  unfold performJtagShift
  rw [graft_jtag h, setJtag_graft h]
  split <;> rfl

theorem performJtagWpresc_graft (h : j ≠ .jtag) (n : Half) :
    performJtagWpresc n (graft j x s) = mapOk (graft j x) (performJtagWpresc n s) := by
  have hset := setJtag_graft (s := s) (x := x) h
  unfold performJtagWpresc
  simp only [graft_jtag h, graft_cfg] at hset ⊢
  rw [hset]
  split <;> rfl

theorem readJtagTdo_graft (h : j ≠ .jtag) : readJtagTdo (graft j x s) = mapRead (graft j x) (readJtagTdo s) := by
  unfold readJtagTdo
  simp only [graft_jtag h, drawHalf_eq, nextAnswer_graft, answered_graft]
  split <;> rfl

theorem jtagClock_graft (h : j ≠ .jtag) (tms tdi : Bool) :
    jtagClock tms tdi (graft j x s) = ((jtagClock tms tdi s).1, graft j x (jtagClock tms tdi s).2) := by
  unfold jtagClock
  simp only [graft_tap h, drawBit_eq, nextAnswer_graft, answered_graft, record_graft, setTap_graft h]

theorem jtagClocks_graft (h : j ≠ .jtag) (f : JtagFrame) (n k : Nat) (out : Half) :
    jtagClocks f n k out (graft j x s) = ((jtagClocks f n k out s).1, graft j x (jtagClocks f n k out s).2) := by
  induction n generalizing k out s with
  | zero => rfl
  | succ n ih => simp only [jtagClocks, jtagClock_graft h, ih]

theorem jtagStep_graft (h : j ≠ .jtag) : jtagStep (graft j x s) = graft j x (jtagStep s) := by
  unfold jtagStep
  simp only [graft_jtag h, jtagClocks_graft h, setJtag_graft h]

/-! ## The words -/

theorem writeEffect_graft (h : j ≠ i.unit) :
    writeEffect i (graft j x s) = mapOk (graft j x) (writeEffect i s) := by
  cases i with
  | i2cWpreLo b v => exact performI2cWpreLo_graft h v
  | i2cWpreHi b v => exact performI2cWpreHi_graft h v
  | i2cWctrl b en => exact performI2cWctrl_graft h en
  | i2cWrite b d sta sto => exact performI2cWrite_graft h b d sta sto
  | i2cRead b sta sto nack => exact startTransfer_graft h _
  | i2cStop b => exact startTransfer_graft h _
  | bpiCmd c => simp only [writeEffect, performBpiCmd, graft_bpi h, setBpi_graft h, mapOk_ok]
  | bpiWbank k => simp only [writeEffect, performBpiWbank, graft_cpld h, setCpld_graft h, mapOk_ok]
  | spi2Wctrl ctl => simp only [writeEffect, performSpi2Wctrl, graft_spi2 h, setSpi2_graft h, mapOk_ok]
  | spi2Wdata v => simp only [writeEffect, performSpi2Wdata, graft_spi2 h, setSpi2_graft h, mapOk_ok]
  | spidWctrl c => exact performSpidWctrl_graft h c
  | spidWfsel v => exact performSpidWfsel_graft h v
  | jtagShift n tms tdi => exact performJtagShift_graft h n tms tdi
  | jtagWpresc n => exact performJtagWpresc_graft h n
  | _ => rfl

theorem readEffect_graft (h : j ≠ i.unit) :
    readEffect i (graft j x s) = mapRead (graft j x) (readEffect i s) := by
  cases i with
  | i2cRpreLo b => simp only [readEffect, readI2cPreLo, graft_i2c h]; split <;> rfl
  | i2cRpreHi b => simp only [readEffect, readI2cPreHi, graft_i2c h]; split <;> rfl
  | i2cRctrl b => simp only [readEffect, readI2cCtrl, graft_i2c h]; split <;> rfl
  | i2cRstat b => simp only [readEffect, readI2cStat, graft_i2c h, mapRead]
  | i2cRdata b => simp only [readEffect, readI2cData, graft_i2c h]; split <;> rfl
  | bpiRdata => exact readBpiData_graft h
  | bpiRbank => exact readBpiBank_graft h
  | spi2Rctrl => exact readSpi2Ctrl_graft h
  | spi2Rdata => exact readSpi2Data_graft h
  | spidRin => exact readSpidIn_graft h
  | jtagRtdo => exact readJtagTdo_graft h
  | jtagRstat => simp only [readEffect, readJtagStat, graft_jtag h, mapRead]
  | _ => rfl

theorem accepts_graft (h : j ≠ i.unit) : accepts i (graft j x s) = accepts i s := by
  have hroom : hasRoom i (graft j x s) = hasRoom i s := by
    cases i with
    | bpiCmd c => simp only [hasRoom, graft_bpi h, graft_cfg]
    | _ => rfl
  unfold accepts
  rw [hroom, graft_cfg, graft_path]

theorem mapNext_toOutcome (g : State → State) (r : Except Fault State) : mapNext g (toOutcome r) = toOutcome (mapOk g r) := by
  cases r <;> rfl

theorem issueWrite_graft (h : j ≠ i.unit) :
    issueWrite i (writeEffect i) (graft j x s) = mapOk (graft j x) (issueWrite i (writeEffect i) s) := by
  unfold issueWrite
  rw [graft_cfg, writeEffect_graft h, post_graft]
  split
  · rfl
  · split
    · cases writeEffect i s <;> simp
    · rfl

theorem issueRead_graft (h : j ≠ i.unit) :
    issueRead i (readEffect i) (graft j x s) = mapOk (graft j x) (issueRead i (readEffect i) s) := by
  unfold issueRead
  rw [graft_cfg, readEffect_graft h]
  split
  · rfl
  · cases readEffect i s <;> simp [mapRead]

theorem mapOk_advance_graft (r : Except Fault State) :
    mapOk State.advance (mapOk (graft j x) r) = mapOk (graft j x) (mapOk State.advance r) := by
  cases r <;> simp

theorem polledRead_graft : polledRead (graft j x s) = polledRead s := by
  unfold polledRead programInstr
  rw [graft_host]

theorem pollFailed_graft (b : Bool) : pollFailed b (graft j x s) = graft j x (pollFailed b s) := by
  unfold pollFailed pollExpired
  cases b <;> simp [graft_ite]

/-- A host operation reads no unit. -/
theorem exec_host_graft (hi : i.isHost = true) : exec i (graft j x s) = mapNext (graft j x) (exec i s) := by
  cases i with
  | hostPoll k p =>
    simp only [exec, execHostPoll, polledRead_graft, graft_host, passFence_graft, advance_graft, pollFailed_graft]
    split
    · rfl
    · split_ifs <;> rfl
  | hostCheck k p st =>
    simp only [exec, execHostCheck, graft_host, passFence_graft, advance_graft, endRun_graft]
    split
    · rfl
    · split_ifs <;> rfl
  | hostHalt st =>
    simp only [exec, execHostHalt, passFence_graft, endRun_graft]
    split <;> rfl
  | hostBarrier =>
    have haccepts : accepts .hostBarrier (graft j x s) = accepts .hostBarrier s := by
      simp only [accepts, hasRoom, graft_cfg, graft_path]
    simp only [exec, execHostBarrier, haccepts, passFence_graft, record_graft, advance_graft]
    split_ifs <;> rfl
  | hostB2b => simp only [exec, execHostB2b, backToBack_graft, record_graft, advance_graft, mapNext]
  | _ => cases hi

/-- A word does the same whatever another unit holds, and leaves that as it is. -/
theorem exec_graft (h : j ≠ i.unit) : exec i (graft j x s) = mapNext (graft j x) (exec i s) := by
  rcases instr_kind i with hw | hr | hh
  · rw [exec_write _ hw, exec_write _ hw, hostWrite, hostWrite, accepts_graft h, issueWrite_graft h, mapOk_advance_graft]
    split
    · rw [mapNext_toOutcome]
    · rfl
  · rw [exec_read _ hr, exec_read _ hr, hostRead, hostRead, accepts_graft h, issueRead_graft h, mapOk_advance_graft]
    split
    · rw [mapNext_toOutcome]
    · rfl
  · exact exec_host_graft hh

/-- Settles O51: every function in question commutes with a graft of another unit, and each replacement is one. -/
theorem unitsReadOwnState : Obligations.UnitsReadOwnState := by
  unfold Obligations.UnitsReadOwnState
  intro k f hf s
  have hgraft : ∀ j ≠ k, ∀ x : State, f (graft j x s) = mapNext (graft j x) (f s) := by
    intro j hj x
    rcases hf with ⟨i, rfl, rfl⟩ | ⟨rfl, rfl⟩ | ⟨rfl, rfl | rfl⟩ | ⟨rfl, rfl⟩ | ⟨rfl, rfl⟩
    · exact exec_graft hj
    · exact congrArg Host.Outcome.next (i2cStep_graft hj)
    · simp only [agentStep, bpiStep_graft hj, mapNext_toOutcome]
    · exact congrArg Host.Outcome.next (cpldStep_graft hj)
    · simp only [agentStep, spi2Step_graft hj, mapNext_toOutcome]
    · exact congrArg Host.Outcome.next (jtagStep_graft hj)
  exact ⟨fun h u => hgraft .i2c h.symm { s with i2c := u }, fun h u v => hgraft .bpi h.symm { s with bpi := u, cpld := v },
    fun h u => hgraft .spi2 h.symm { s with spi2 := u }, fun h u => hgraft .spid h.symm { s with spid := u },
    fun h u v => hgraft .jtag h.symm { s with jtag := u, tap := v }⟩

end Sys2Proof.Machine
end

section
/-! Proofs about the state after reset (70_reset_and_hazards.md): its fields, and that it has the invariant. -/

namespace Sys2Proof.Machine

/-- The reset host agent: no program, so `H.pc` is at its end and there is no run to be over. -/
theorem hostInv_reset : HostInv .reset := ⟨Nat.le_refl _, fun _ hne _ => absurd rfl hne⟩

theorem pathInv_reset (c : Config) : PathInv c .reset :=
  ⟨fun _ => rfl, List.Pairwise.nil, fun _ hw => (List.not_mem_nil hw).elim, fun _ hw => (List.not_mem_nil hw).elim⟩

theorem inv_resetWith (c : Config) (d : ResetDraws) : Inv (State.resetWith c d) where
  i2c := ⟨rfl, fun _ h => (Option.some_ne_none _ h.symm).elim, fun h => (Bool.false_ne_true h).elim⟩
  bpi := by constructor <;> simp [State.resetWith, BpiUnit.reset]
  latched_valid := rfl
  presc_fits := Nat.two_pow_pos _
  path := pathInv_reset c
  host := hostInv_reset
  domains := List.length_replicate
  others := by
    intro e h us hh _
    rw [List.eq_of_mem_replicate (List.mem_of_getElem? hh)]
    exact ⟨hostInv_reset, pathInv_reset _⟩

/-- Settles O47: nothing is in progress, posted or loaded after reset. -/
theorem invReset : Obligations.InvReset := by
  unfold Obligations.InvReset
  exact ⟨inv_resetWith, rfl, by decide⟩

/-- Settles O46: every field of the reset state has its value by definition, for every controller's burst and every other host. -/
theorem resetState : Obligations.ResetState := by
  unfold Obligations.ResetState
  intro c d
  refine ⟨rfl, ?i2c, ?bpi, ?cpld, ?spi2, ?spid, ?jtag, ?host, ?others⟩
  case i2c => exact ⟨rfl, rfl, rfl, rfl, rfl, rfl, rfl, rfl, rfl⟩
  case bpi => exact ⟨rfl, rfl, rfl, rfl, rfl, rfl, rfl⟩
  case cpld => exact ⟨rfl, rfl, rfl⟩
  case spi2 => exact ⟨rfl, rfl, rfl, rfl, rfl, rfl⟩
  case spid => exact ⟨rfl, rfl, rfl⟩
  case jtag => exact ⟨rfl, rfl, rfl, rfl, rfl, rfl⟩
  case host => exact ⟨rfl, rfl, rfl, fun k => by cases k <;> rfl, rfl, rfl⟩
  case others =>
    refine ⟨List.length_replicate, fun h hh => ?_⟩
    rw [List.eq_of_mem_replicate hh]
    exact ⟨rfl, rfl⟩

end Sys2Proof.Machine
end

section
/-! Proofs about single words of the units: the register writes and reads of BPI, SPI-v2, SPI-dual and JTAG, and the CPLD's
completion (43_bpi.md, 44_spi_v2.md, 45_spi_dual.md, 46_jtag.md). -/

namespace Sys2Proof.Machine

variable {s : State}

/-! ## BPI.CMD (R221) -/

theorem hasRoom_bpiCmd (c : RegVal) (s : State) :
    hasRoom (.bpiCmd c) s = decide (s.bpi.cmdq.length < s.cfg.bpiCmdFifoDepth) := rfl

theorem not_accepts_of_full {i : Instr} (h : hasRoom i s = false) : accepts i s = false := by
  simp [accepts, h]

/-- A write that the block does not accept waits. -/
theorem exec_write_waits {i : Instr} (hw : i.isWrite = true) (h : accepts i s = false) : exec i s = .next s := by
  rw [exec_write s hw, hostWrite, h]
  rfl

/-- The host is not enabled at a word that the block does not accept. -/
theorem host_disabled_of_waiting {i : Instr} {w : MceWord} (hmode : s.host.mode = .program)
    (hfetch : fetchWord s = some w) (hdec : decode w = some i) (h : accepts i s = false) : enabled .host s = false := by
  simp [enabled, hostEnabled, hostAccepted, hmode, hfetch, hdec, h]

/-- Settles O21: there is a free place, or the block does not accept the word. -/
theorem bpiCommandWrite : Obligations.BpiCommandWrite := by
  unfold Obligations.BpiCommandWrite
  refine fun cmd s => ⟨rfl, fun hd hroom => ?free, fun hfull => ?full⟩
  case free => exact exec_direct hd rfl (decide_eq_true hroom) rfl
  case full =>
    have hwait : accepts (.bpiCmd cmd) s = false :=
      not_accepts_of_full (by rw [hasRoom_bpiCmd]; exact decide_eq_false (by omega))
    exact ⟨exec_write_waits rfl hwait,
      fun hmode hfetch => host_disabled_of_waiting hmode hfetch (decodeEncode _ rfl) hwait⟩

/-! ## BPI.WBANK and the CPLD (R230) -/

/-- The CPLD after its completion with bank `k`, from the state `u` that the draws left. -/
theorem cpldStep_eq {u : State} {k : Byte} (h : cpldBank s = (k, u)) :
    cpldStep s = { u with
      cpld := { u.cpld with bankEff := k, busy := false }
      history := u.history ++ [.cpldDone k] } := by
  simp only [cpldStep, h, State.record]

theorem agentStep_cpld {u : State} {k : Byte} (h : cpldBank s = (k, u)) :
    agentStep .cpld s = .next { u with
      cpld := { u.cpld with bankEff := k, busy := false }
      history := u.history ++ [.cpldDone k] } :=
  congrArg Host.Outcome.next (cpldStep_eq h)

/-- Settles O23: the CPLD's bank by the branches of R230, on a register that was written or not. -/
theorem bpiBankWrite : Obligations.BpiBankWrite := by
  unfold Obligations.BpiBankWrite
  refine ⟨fun k s => ⟨rfl, fun hd => exec_direct hd rfl rfl rfl⟩,
    fun s => ⟨rfl, fun hk hr => ?reliable, fun hk hr => ?unreliable, fun hk => ⟨fun hr => ?anyReliable, fun hr => ?any⟩⟩⟩
  case reliable => exact agentStep_cpld (by simp [cpldBank, hk, hr])
  case unreliable => exact agentStep_cpld (u := s.answered .cpldTook) (by simp [cpldBank, hk, hr])
  case anyReliable => exact agentStep_cpld (u := s.answered .cpldUnknown) (by simp [cpldBank, hk, hr])
  case any => exact agentStep_cpld (u := (s.answered .cpldUnknown).answered .cpldTook) (by simp [cpldBank, hk, hr])

/-! ## SPI-v2 (R271, R278, R280) -/

theorem spi2CtlValue_lt (c : Spi2Ctl) : spi2CtlValue c < 4096 := by
  have hn := c.cntM1.isLt
  have hdev := c.dev.isLt
  have hcs := c.cs.toNat_le
  have hrw := c.rw.toNat_le
  have hvalid := c.valid.toNat_le
  have hquad := c.quad.toNat_le
  simp only [spi2CtlValue]
  omega

/-- The flag of the read FIFO lies above the latched fields, so the value is their sum. -/
theorem spi2CtrlValue_eq_ofNat (c : Spi2Ctl) (e : Bool) :
    spi2CtrlValue c e = BitVec.ofNat 32 (spi2CtlValue { c with valid := false } + e.toNat * 65536) := by
  have hlt := spi2CtlValue_lt { c with valid := false }
  have he : e.toNat ≤ 1 := e.toNat_le
  have hsum := Nat.two_pow_add_eq_or_of_lt (i := 16) (b := spi2CtlValue { c with valid := false }) (by omega) e.toNat
  apply BitVec.eq_of_toNat_eq
  rw [spi2CtrlValue, BitVec.toNat_or, bitAt_toNat _ (by omega), BitVec.toNat_ofNat, BitVec.toNat_ofNat,
    Nat.mod_eq_of_lt (by omega), Nat.mod_eq_of_lt (by omega), Nat.or_comm, Nat.mul_comm e.toNat, ← hsum]
  omega

theorem readEffect_spi2Rctrl_known (h : s.spi2.ctrlKnown = true) :
    readEffect .spi2Rctrl s = .ok (spi2CtrlValue s.spi2.ctrl (!s.spi2.rdq.isEmpty), s) := by
  simp [readEffect, readSpi2Ctrl, h]

theorem readEffect_spi2Rctrl_unknown (h : s.spi2.ctrlKnown = false) :
    readEffect .spi2Rctrl s =
      .ok (spi2CtrlUnknown (s.nextAnswer .spi2Ctrl) (!s.spi2.rdq.isEmpty), s.answered .spi2Ctrl) := by
  simp [readEffect, readSpi2Ctrl, h]

theorem readEffect_spi2Rdata_empty (h : s.spi2.rdq = []) : readEffect .spi2Rdata s = .error .spi2RxEmpty := by
  simp only [readEffect, readSpi2Data, h]

theorem readEffect_spi2Rdata_entry {e : RegVal} {rest : List RegVal} (h : s.spi2.rdq = e :: rest) :
    readEffect .spi2Rdata s = .ok (e, { s with spi2 := { s.spi2 with rdq := rest } }) := by
  simp only [readEffect, readSpi2Data, h]

/-- The bits of the mask that R45 leaves of an answer: the fields of the latched control word without VALID. -/
theorem spi2Mask_getLsbD (k : Nat) : (0xF3B#32).getLsbD k = decide (k < 12 ∧ k ≠ 2 ∧ k ≠ 6 ∧ k ≠ 7) := by
  by_cases hk : k < 12
  · interval_cases k <;> rfl
  · rw [BitVec.getLsbD, BitVec.toNat_ofNat, Nat.testBit_lt_two_pow]
    · simp [hk]
    · exact (show (0xF3B % 2 ^ 32 : Nat) < 2 ^ 12 by norm_num).trans_le (Nat.pow_le_pow_right (by omega) (by omega))

theorem spi2CtrlUnknown_getLsbD (v : RegVal) (e : Bool) (k : Nat) :
    (spi2CtrlUnknown v e).getLsbD k =
      ((v.getLsbD k && decide (k < 12 ∧ k ≠ 2 ∧ k ≠ 6 ∧ k ≠ 7)) || (decide (k = 16) && e)) := by
  rw [spi2CtrlUnknown, BitVec.getLsbD_or, BitVec.getLsbD_and, spi2Mask_getLsbD, bitAt_getLsbD _ _ (by omega)]

/-- Settles O34: the value of R278 in its two branches, and R280's on an empty and a filled FIFO. -/
theorem spi2Reads : Obligations.Spi2Reads := by
  unfold Obligations.Spi2Reads
  refine ⟨⟨rfl, rfl⟩, fun s => ⟨fun hd hk => ?known, fun hd hk => ?unknown, fun hd => ?data⟩⟩
  case known =>
    rw [exec_read_direct hd rfl (readEffect_spi2Rctrl_known hk), spi2CtrlValue_eq_ofNat]
    have hflag : (!s.spi2.rdq.isEmpty).toNat * 65536 = if s.spi2.rdq = [] then 0 else 65536 := by
      cases s.spi2.rdq <;> simp
    simp [hflag, spi2CtlValue]
  case unknown =>
    refine ⟨_, exec_read_direct hd rfl (readEffect_spi2Rctrl_unknown hk), ?_⟩
    simp only [spi2CtrlUnknown_getLsbD]
    refine ⟨by simp, by simp, by simp, by simp, fun k hk hne => ?_, fun k hk h2 h6 h7 => ?_⟩
    · simp [hne, Nat.not_lt.2 (Nat.succ_le_of_lt hk)]
    · simp [hk, h2, h6, h7, show k ≠ 16 by omega]
  case data =>
    cases hq : s.spi2.rdq with
    | nil => exact exec_read_fault hd rfl (readEffect_spi2Rdata_empty hq)
    | cons e rest => exact exec_read_direct hd rfl (readEffect_spi2Rdata_entry hq)

/-- Settles O35. -/
theorem spi2ControlIssue : Obligations.Spi2ControlIssue := by
  unfold Obligations.Spi2ControlIssue
  exact fun ctl s => ⟨rfl, fun hd => exec_direct hd rfl rfl rfl⟩

/-! ## SPID.WCTRL (R301) -/

/-- The events of a control write: its clock edge, where the flash is selected and the old level is known. -/
def spidEdges (c : SpidCtl) (u : SpidUnit) : List Event :=
  if u.ctrlKnown = true ∧ c.cs = true ∧ u.ctrl.sck = false ∧ c.sck = true then
    [.spidRise (if u.fselKnown then some u.fsel else none) c.dout c.oe]
  else if u.ctrlKnown = true ∧ c.cs = true ∧ u.ctrl.sck = true ∧ c.sck = false then
    [.spidFall (if u.fselKnown then some u.fsel else none)]
  else []

theorem spidEdge_eq (c : SpidCtl) (s : State) :
    spidEdge c s = { s with history := s.history ++ spidEdges c s.spid } := by
  unfold spidEdge spidEdges
  by_cases hsel : s.spid.ctrlKnown = true ∧ c.cs = true
  · obtain ⟨hknown, hcs⟩ := hsel
    cases hold : s.spid.ctrl.sck <;> cases hnew : c.sck <;> simp [hknown, hcs, State.record, SpidUnit.select]
  · rw [if_neg (by simpa using hsel), if_neg (fun h => hsel ⟨h.1, h.2.1⟩), if_neg (fun h => hsel ⟨h.1, h.2.1⟩),
      List.append_nil]

theorem writeEffect_spidWctrl (c : SpidCtl) (s : State) :
    writeEffect (.spidWctrl c) s = .ok { s with
      spid := { s.spid with ctrl := c, ctrlKnown := true }
      history := s.history ++ spidEdges c s.spid ++ [.spidCtrl c] } := by
  simp only [writeEffect, performSpidWctrl, spidEdge_eq, State.record]

/-- Settles O37: the events of the write are those of `spidEdges`, then the write itself. -/
theorem spidControlWrite : Obligations.SpidControlWrite := by
  unfold Obligations.SpidControlWrite
  exact fun c s => ⟨rfl, fun hd => exec_direct hd rfl rfl (writeEffect_spidWctrl c s)⟩

/-! ## JTAG.SHIFT (R340) -/

theorem writeEffect_jtagShift_idle (n : Nat) (tms tdi : Half) (h : s.jtag.busy = false) :
    writeEffect (.jtagShift n tms tdi) s = .ok { s with jtag := { s.jtag with pending := ⟨n, tms, tdi⟩, busy := true } } := by
  simp [writeEffect, performJtagShift, h]

theorem writeEffect_jtagShift_busy (n : Nat) (tms tdi : Half) (h : s.jtag.busy = true) :
    writeEffect (.jtagShift n tms tdi) s = .error (.jtagBusy 340) := by
  simp [writeEffect, performJtagShift, h]

/-- Settles O39. -/
theorem jtagShiftIssue : Obligations.JtagShiftIssue := by
  unfold Obligations.JtagShiftIssue
  exact fun n tms tdi s => ⟨fun _ => rfl, fun hd hidle => exec_direct hd rfl rfl (writeEffect_jtagShift_idle n tms tdi hidle),
    fun hd hbusy => exec_direct_fault hd rfl rfl (writeEffect_jtagShift_busy n tms tdi hbusy)⟩

/-! ## JTAG.RTDO and JTAG.RSTAT (R342, R344) -/

theorem readEffect_jtagRtdo_known (h : s.jtag.tdoKnown = true) :
    readEffect .jtagRtdo s = .ok (BitVec.ofNat 32 s.jtag.tdo.toNat, s) := by
  have hwide : s.jtag.tdo.setWidth 32 = BitVec.ofNat 32 s.jtag.tdo.toNat := BitVec.eq_of_toNat_eq (by simp)
  simp only [readEffect, readJtagTdo, h, if_true, hwide]

theorem readEffect_jtagRtdo_unknown (h : s.jtag.tdoKnown = false) :
    readEffect .jtagRtdo s =
      .ok (BitVec.ofNat 32 ((s.nextAnswer .tdoUnknown).toNat % 65536), s.answered .tdoUnknown) := by
  have hcut : ((s.nextAnswer .tdoUnknown).setWidth 16).setWidth 32 =
      BitVec.ofNat 32 ((s.nextAnswer .tdoUnknown).toNat % 65536) := by
    apply BitVec.eq_of_toNat_eq
    simp [BitVec.toNat_setWidth]
  simp [readEffect, readJtagTdo, h, hcut]

/-- Settles O40: by the two branches of R342; R344 has one. -/
theorem jtagReads : Obligations.JtagReads := by
  unfold Obligations.JtagReads
  refine ⟨⟨rfl, rfl⟩, fun s => ⟨fun hd hk => ?known, fun hd hk => ?unknown, fun hd => ?busy⟩⟩
  case known => exact exec_read_direct hd rfl (readEffect_jtagRtdo_known hk)
  case unknown => exact exec_read_direct hd rfl (readEffect_jtagRtdo_unknown hk)
  case busy =>
    rw [← bitAt_zero]
    exact exec_read_direct hd rfl rfl

/-! ## The TAP tables -/

/-- Settles O42: two finite tables, of 16 states and of 30 entries by 16 states. -/
theorem tapTables : Obligations.TapTables := by
  unfold Obligations.TapTables
  have htable : ∀ t : TapState, ∀ e ∈ Config.modelTmsTable, JtagState.covers e.src t = true →
      JtagState.covers e.dst (tapRun t (tmsStream e)) = true := by
    intro t
    cases t <;> decide
  exact ⟨fun t => by cases t <;> rfl, fun e he t => htable t e he⟩

end Sys2Proof.Machine
end

section
/-! Proofs about the arithmetic of the prescalers and shots (R123, R124, R161, R162, R356). -/

namespace Sys2Proof.Machine

/-! ## The I2C prescaler -/

/-- An accepted frequency has as prescaler one less than a positive quotient. -/
theorem bus2core_some {f clk p : Nat} (h : bus2core f clk = some p) : 0 < f ∧ clk / (5 * f) = p + 1 := by
  unfold bus2core at h
  split_ifs at h with hzero hlow hhigh
  cases h
  omega

/-- Settles O20: the quotient `p + 1` of the clock by `5 f`, multiplied out. -/
theorem i2cFrequencyTight : Obligations.I2cFrequencyTight := by
  unfold Obligations.I2cFrequencyTight
  refine ⟨by decide, by decide, fun f clk p h => ?_⟩
  obtain ⟨hf, hquot⟩ := bus2core_some h
  have hle : (p + 1) * (5 * f) ≤ clk := hquot ▸ Nat.div_mul_le_self clk (5 * f)
  have hlt : clk < 5 * f * (p + 1 + 1) := hquot ▸ Nat.lt_mul_div_succ clk (by omega)
  constructor
  · exact (Nat.le_div_iff_mul_le (by omega)).2 (by linarith)
  · exact (Nat.div_lt_iff_lt_mul (by omega)).2 (by linarith)

/-! ## The search of the JTAG prescaler -/

/-- The search stops at the least prescaler that is slow enough, or when its fuel is used up. -/
theorem jtagPrescSearch_spec (clk f fuel n : Nat) :
    n ≤ jtagPrescSearch clk f fuel n ∧ jtagPrescSearch clk f fuel n ≤ n + fuel ∧
      (∀ m, n ≤ m → m < jtagPrescSearch clk f fuel n → f < clk / 2 / 2 ^ m) ∧
      (jtagPrescSearch clk f fuel n < n + fuel → clk / 2 / 2 ^ jtagPrescSearch clk f fuel n ≤ f) := by
  induction fuel generalizing n with
  | zero => exact ⟨le_refl _, le_refl _, fun m hle hlt => absurd hlt (Nat.not_lt.2 hle), fun h => absurd h (by simp [jtagPrescSearch])⟩
  | succ fuel ih =>
    rw [jtagPrescSearch]
    split_ifs with hfast
    · obtain ⟨hlow, hhigh, hbelow, hstop⟩ := ih (n + 1)
      refine ⟨by omega, by omega, fun m hle hlt => ?_, fun h => hstop (by omega)⟩
      rcases Nat.eq_or_lt_of_le hle with rfl | hgt
      · exact hfast
      · exact hbelow m hgt hlt
    · exact ⟨le_refl _, by omega, fun m hle hlt => absurd hlt (Nat.not_lt.2 hle), fun _ => Nat.not_lt.1 hfast⟩

/-- Settles O60: the search from 0, with `2^W - 1` steps of fuel. -/
theorem prescalerSearch : Obligations.PrescalerSearch := by
  unfold Obligations.PrescalerSearch
  intro c f
  obtain ⟨-, hle, hbelow, hstop⟩ := jtagPrescSearch_spec c.jtagClk f (2 ^ c.jtagPrescalerBits - 1) 0
  rw [Nat.zero_add] at hle hstop
  exact ⟨hle, fun m hm => hbelow m (Nat.zero_le m) hm, hstop⟩

/-! ## Shots -/

/-- The number of shots is the least that covers the units. -/
theorem shotCount_covers {n m : Nat} (hn : 1 ≤ n) (hm : 1 ≤ m) :
    (shotCount n m - 1) * m < n ∧ n ≤ shotCount n m * m := by
  have hle : shotCount n m * m ≤ n + m - 1 := Nat.div_mul_le_self _ _
  have hlt : n + m - 1 < m * (shotCount n m + 1) := Nat.lt_mul_div_succ _ hm
  rw [Nat.mul_comm, Nat.add_mul, Nat.one_mul] at hlt
  rw [Nat.sub_mul, Nat.one_mul]
  omega

/-- A shot before the last one is full; the last one ends at the last unit. -/
theorem shotSize_spec {n m k : Nat} (hn : 1 ≤ n) (hm : 1 ≤ m) (hk : k < shotCount n m) :
    k * m + shotSize n m k = min ((k + 1) * m) n ∧
      (k + 1 < shotCount n m → shotSize n m k = m) ∧
      (k + 1 = shotCount n m → 1 ≤ shotSize n m k ∧ shotSize n m k ≤ m ∧ k * m + shotSize n m k = n) := by
  obtain ⟨hlow, hhigh⟩ := shotCount_covers hn hm
  have hstart : k * m ≤ (shotCount n m - 1) * m := Nat.mul_le_mul_right m (by omega)
  have hnext : (k + 1) * m = k * m + m := Nat.succ_mul k m
  unfold shotSize
  refine ⟨by omega, fun hlt => ?_, fun hlast => ?_⟩
  · have hfull : (k + 1) * m ≤ (shotCount n m - 1) * m := Nat.mul_le_mul_right m (by omega)
    omega
  · rw [← hlast] at hhigh
    omega

@[simp] theorem burst_setBurst (s : State) (c : Controller) (b : BurstState) : (s.setBurst c b).host.burst c = b := by
  cases c <;> rfl

@[simp] theorem push_burst (s : State) (ms : List Micro) (c : Controller) : (s.push ms).host.burst c = s.host.burst c := by
  cases c <;> rfl

/-- The write loop at a shot that is left. -/
theorem runWriteLoop_shot {k : Nat} {s : State}
    (hk : k < shotCount s.burstUnits (maxWriteShot s.cfg s.host.drv.ctl)) :
    runWriteLoop k s = .ok ((s.setShot s.host.drv.ctl (decide (k = 0))
        (decide (k + 1 = shotCount s.burstUnits (maxWriteShot s.cfg s.host.drv.ctl)))).push
      (.run (.writeShot k) :: (queueWait (s.cfg.sizes s.host.drv.ctl.unit).writeQueue k ++ [.run (.writeLoop (k + 1))]))) := by
  simp only [runWriteLoop, hk, if_true]

/-- The write loop after the last shot. -/
theorem runWriteLoop_end {k : Nat} {s : State}
    (hk : ¬k < shotCount s.burstUnits (maxWriteShot s.cfg s.host.drv.ctl)) :
    runWriteLoop k s = .ok (if shotCount s.burstUnits (maxWriteShot s.cfg s.host.drv.ctl) %
        (s.cfg.sizes s.host.drv.ctl.unit).writeQueue ≠ 0 then s.push [.run .waitWriteQueue] else s) := by
  simp only [runWriteLoop, hk, if_false]

theorem setShot_stack (s : State) (c : Controller) (first last : Bool) :
    (s.setShot c first last).host.drv.stack = s.host.drv.stack := by
  cases c <;> rfl

/-- Settles O55. -/
theorem shotPartition : Obligations.ShotPartition := by
  unfold Obligations.ShotPartition
  refine ⟨fun n m hn hm => ?sizes, fun k s => ?loop⟩
  case sizes =>
    obtain ⟨hlow, hhigh⟩ := shotCount_covers hn hm
    exact ⟨hlow, hhigh, fun k hk => shotSize_spec hn hm hk⟩
  case loop =>
    intro c n q
    by_cases hk : k < n
    · refine ⟨_, runWriteLoop_shot hk, fun _ => ⟨?_, ?_, ?_⟩, fun hle => absurd hk (Nat.not_lt.2 hle)⟩
      · rw [push_burst, State.setShot, burst_setBurst]
      · rw [push_burst, State.setShot, burst_setBurst]
      · simp only [State.push, State.setDrv, setShot_stack, queueWait, List.cons_append, List.append_assoc, List.nil_append]
        rfl
    · refine ⟨_, runWriteLoop_end hk, fun hlt => absurd hlt hk, fun _ => ?_⟩
      by_cases hq : n % q ≠ 0
      · rw [if_pos hq, if_pos hq]
        rfl
      · rw [if_neg hq, if_neg hq]
        rfl

end Sys2Proof.Machine
end

section
/-! Proofs about the host (48_host.md): the poll and the fences of a host program, and the control stack of a driver call. -/

namespace Sys2Proof.Machine

variable {k : Nat} {p : Bool} {s : State} {r i : Instr}

/-! ## HOST.POLL (R402, R403) -/

/-- A poll repeats the read of the word just before it. -/
theorem polledRead_eq_some {w : MceWord} (hpc : s.host.pc ≠ 0) (hw : s.host.program[s.host.pc - 1]? = some w)
    (hr : decode w = some r) (hread : r.isRead = true) : polledRead s = some r := by
  obtain ⟨m, hm⟩ := Nat.exists_eq_succ_of_ne_zero hpc
  rw [hm, Nat.succ_sub_one] at hw
  simp only [polledRead, hm, programInstr, hw, hr, hread, if_true]

/-- With no read word just before it a poll repeats nothing. -/
theorem polledRead_eq_none (h : ∀ w r, s.host.pc ≠ 0 → s.host.program[s.host.pc - 1]? = some w → decode w = some r →
    r.isRead = false) : polledRead s = none := by
  cases hpc : s.host.pc with
  | zero => simp only [polledRead, hpc]
  | succ m =>
    rw [hpc, Nat.succ_sub_one] at h
    cases hw : s.host.program[m]? with
    | none => simp only [polledRead, hpc, programInstr, hw]
    | some w =>
      cases hr : decode w with
      | none => simp only [polledRead, hpc, programInstr, hw, hr]
      | some r => simp [polledRead, hpc, programInstr, hw, hr, h w r (Nat.succ_ne_zero m) hw hr]

/-- Every read but `SPI2.RCTRL` has a bound. -/
theorem pollBounded_of_ne (h : r ≠ .spi2Rctrl) : pollBounded r = true := by
  cases r <;> trivial

/-- A failed test without a bound steps back. -/
theorem pollFailed_unbounded (s : State) : pollFailed false s = { s with host := { s.host with pc := s.host.pc - 1 } } := rfl

/-- A failed test with a bound steps back or ends the run, as the environment answers. -/
theorem pollFailed_bounded (s : State) :
    pollFailed true s = { s.answered .pollExpired with
      host := if (s.nextAnswer .pollExpired).getLsbD 0 then { s.host with status := some .timeout }
        else { s.host with pc := s.host.pc - 1 } } := by
  simp only [pollFailed, pollExpired, if_true, drawBit_eq]
  split <;> rfl

theorem exec_hostPoll_none (h : polledRead s = none) : exec (.hostPoll k p) s = .fault .hostPoll := by
  simp only [exec, execHostPoll, h]

theorem exec_hostPoll_unwritten (h : polledRead s = some r) (hknown : s.host.lastKnown = false) :
    exec (.hostPoll k p) s = .fault (.unwritten 402) := by
  simp [exec, execHostPoll, h, hknown]

theorem exec_hostPoll_passes (h : polledRead s = some r) (hknown : s.host.lastKnown = true)
    (hbit : s.host.last.getLsbD k = p) : exec (.hostPoll k p) s = .next s.passFence.advance := by
  simp [exec, execHostPoll, h, hknown, hbit]

theorem exec_hostPoll_fails (h : polledRead s = some r) (hknown : s.host.lastKnown = true)
    (hbit : s.host.last.getLsbD k ≠ p) : exec (.hostPoll k p) s = .next (pollFailed (pollBounded r) s.passFence) := by
  simp [exec, execHostPoll, h, hknown, hbit]

/-- Settles O43: by the branches of R402; a failed test has a bound for every read but `SPI2.RCTRL`. -/
theorem hostPoll : Obligations.HostPoll := by
  unfold Obligations.HostPoll
  refine fun k p s => ⟨rfl, fun h => exec_hostPoll_none (polledRead_eq_none h), fun w r hpc hw hr hread hord => ?_⟩
  have hpoll : polledRead s = some r := polledRead_eq_some hpc hw hr hread
  have hfence : s.passFence = s := s.passFence_inOrder hord
  refine ⟨exec_hostPoll_unwritten hpoll, fun hknown hbit => ?passes, fun hknown hbit hun => ?unbounded,
    fun hknown hbit hb => ?bounded⟩
  case passes => rw [exec_hostPoll_passes hpoll hknown hbit, hfence, State.advance_eq]
  case unbounded =>
    rw [exec_hostPoll_fails hpoll hknown hbit, hfence, hun]
    exact congrArg Host.Outcome.next (pollFailed_unbounded s)
  case bounded => rw [exec_hostPoll_fails hpoll hknown hbit, hfence, pollBounded_of_ne hb, pollFailed_bounded]

/-! ## HOST.BARRIER and HOST.B2B (R406, R407) -/

/-- With posted writes a read is accepted when the write its fence names is no longer posted. -/
theorem accepts_read_posted (hord : s.cfg.regOrder = .postedUntilBarrier) (hi : i.isRead = true) :
    accepts i s = s.path.fenceOpen := by
  unfold accepts
  rw [hord]
  cases i <;> trivial

theorem accepts_barrier_posted (hord : s.cfg.regOrder = .postedUntilBarrier) :
    accepts .hostBarrier s = s.path.posted.isEmpty := by
  simp only [accepts, hasRoom, hord, Bool.true_and]

/-- A fence is closed while the write it names is posted. -/
theorem fenceOpen_eq_false_iff (path : RegPath) :
    path.fenceOpen = false ↔ ∃ n, path.fence = some n ∧ ∃ e ∈ path.posted, e.id = n := by
  cases hf : path.fence with
  | none => simp [RegPath.fenceOpen, hf]
  | some n =>
    simp only [RegPath.fenceOpen, RegPath.pending, hf, Bool.not_eq_false', List.any_eq_true, decide_eq_true_eq]
    exact ⟨fun h => ⟨n, rfl, h⟩, fun ⟨_, hn, h⟩ => Option.some.inj hn ▸ h⟩

theorem exec_hostBarrier_accepted (h : accepts .hostBarrier s = true) :
    exec .hostBarrier s = .next (s.passFence.record .barrier).advance := by
  simp only [exec, execHostBarrier, h, if_true]

theorem exec_hostBarrier_waits (h : accepts .hostBarrier s = false) : exec .hostBarrier s = .next s := by
  simp [exec, execHostBarrier, h]

theorem exec_hostB2b (s : State) : exec .hostB2b s = .next (s.backToBack.record .b2b).advance := rfl

theorem passFence_posted (hord : s.cfg.regOrder = .postedUntilBarrier) :
    s.passFence = { s with path := { s.path with prevWrite := none, fence := none } } := by
  rw [State.passFence_eq, afterNonWrite, hord]

theorem backToBack_inOrder (hord : s.cfg.regOrder = .inOrder) : s.backToBack = s := by
  simp only [State.backToBack, hord]

theorem backToBack_posted (hord : s.cfg.regOrder = .postedUntilBarrier) :
    s.backToBack = { s with path := { s.path with fence := s.path.prevWrite, prevWrite := none } } := by
  simp only [State.backToBack, hord]

/-- Settles O45. -/
theorem hostFences : Obligations.HostFences := by
  unfold Obligations.HostFences
  refine ⟨⟨rfl, rfl⟩, fun s => ⟨fun hord => ?inOrder, fun hord => ?posted⟩⟩
  case inOrder =>
    have haccepts : accepts .hostBarrier s = true := accepts_inOrder hord
    refine ⟨?_, ?_⟩
    · rw [exec_hostBarrier_accepted haccepts, s.passFence_inOrder hord]
      rfl
    · rw [exec_hostB2b, backToBack_inOrder hord]
      rfl
  case posted =>
    have hbarrier : accepts .hostBarrier s = s.path.posted.isEmpty := accepts_barrier_posted hord
    refine ⟨fun hne => ?waits, fun hnil => ?goes, ?b2b, fun i hi => ?read⟩
    case waits =>
      have hwait : accepts .hostBarrier s = false := hbarrier.trans (List.isEmpty_eq_false_iff.2 hne)
      exact ⟨hwait, exec_hostBarrier_waits hwait⟩
    case goes =>
      rw [exec_hostBarrier_accepted (hbarrier.trans (List.isEmpty_iff.2 hnil)), passFence_posted hord]
      rfl
    case b2b =>
      rw [exec_hostB2b, backToBack_posted hord]
      rfl
    case read => rw [accepts_read_posted hord hi, fenceOpen_eq_false_iff]

/-! ## The control stack (R409, R424) -/

/-- A step of a running call is the step of the entry on top of its control stack. -/
theorem driverStep_top {m : Micro} {rest : List Micro} (h : s.host.drv.stack = m :: rest) :
    driverStep s = microStep m s := by
  simp only [driverStep, h]

/-- With the top entry taken off, the rest of the stack is left. -/
theorem pop_eq {m : Micro} {rest : List Micro} (h : s.host.drv.stack = m :: rest) :
    s.pop = s.setDrv { s.host.drv with stack := rest } := by
  rw [State.pop, h]
  rfl

/-- After a failure an operation is passed over. -/
theorem microStep_op_failed (h : s.host.drv.status ≠ .ok) : microStep (.op i) s = .next s.pop := by
  simp only [microStep, microOp, h, ne_eq, not_false_eq_true, if_true]

/-- After a failure a point of a procedure is passed over. -/
theorem microStep_run_failed {q : Proc} (h : s.host.drv.status ≠ .ok) : microStep (.run q) s = .next s.pop := by
  simp only [microStep, microRun, h, ne_eq, not_false_eq_true, if_true]

theorem microStep_run_ok {q : Proc} (h : s.host.drv.status = .ok) :
    microStep (.run q) s = toOutcome (runProc q s.pop) := by
  simp [microStep, microRun, h]

theorem microStep_op_ok (h : s.host.drv.status = .ok) :
    microStep (.op i) s = if accepts i s then toOutcome (issue i s.pop) else .next s := by
  simp [microStep, microOp, h]

/-- The abort handler runs after a failure. -/
theorem microStep_onFail_failed {q : Proc} (h : s.host.drv.status ≠ .ok) :
    microStep (.onFail q) s = .next ((s.pop.setStatus .ok).push [.run q, .restore s.host.drv.status]) := by
  simp only [microStep, h, if_false]

theorem microStep_onFail_ok {q : Proc} (h : s.host.drv.status = .ok) : microStep (.onFail q) s = .next s.pop := by
  simp only [microStep, h, if_true]

theorem setStatus_self {st : Status} (h : s.host.drv.status = st) : s.setStatus st = s := by
  subst h
  rfl

/-- Settles O56: each entry of the control stack, on a call that has failed and on one that has not. -/
theorem abortKeepsStatus : Obligations.AbortKeepsStatus := by
  unfold Obligations.AbortKeepsStatus
  intro p rest s at'
  refine ⟨fun st hst => ⟨fun i => ?_, ?_, ?_⟩, ?_, fun st now => rfl, fun st now => ⟨rfl, ?_⟩⟩
  · exact (driverStep_top rfl).trans (microStep_op_failed hst)
  · exact (driverStep_top rfl).trans (microStep_run_failed hst)
  · exact (driverStep_top rfl).trans (microStep_onFail_failed hst)
  · exact (driverStep_top rfl).trans (microStep_onFail_ok rfl)
  · rw [driverStep_top (m := .combine st) (rest := rest) rfl, microStep]
    split <;> rfl

/-! ## Activation (R181) -/

theorem runI2cActivate_absent {b : Nat} (h : s.cfg.i2cNumBanks ≤ b) :
    runI2cActivate b s = .ok (s.setStatus .invalidArgument) := by
  rw [runI2cActivate, if_pos h]

theorem runI2cActivate_active {b : Nat} (h : b < s.cfg.i2cNumBanks) (hactive : s.host.activeBus = some b) :
    runI2cActivate b s = .ok s := by
  rw [runI2cActivate, if_neg (Nat.not_le.2 h), if_pos hactive]

/-- Settles O58: the two branches of R181 that make no access. -/
theorem activationShortcuts : Obligations.ActivationShortcuts := by
  unfold Obligations.ActivationShortcuts
  intro b rest s hstack hok
  have hstep : driverStep s = toOutcome (runI2cActivate b s.pop) := by
    rw [driverStep_top hstack, microStep_run_ok hok, runProc]
  refine ⟨fun hb => ?_, fun hb hactive => ?_⟩
  · rw [hstep, runI2cActivate_absent (s := s.pop) hb, pop_eq hstack]
    rfl
  · rw [hstep, runI2cActivate_active (s := s.pop) hb hactive, pop_eq hstack]
    rfl

/-! ## The entry of a burst (R121) -/

theorem bitMask_getLsbD_foldl (ks : List Nat) (m : BitVec 32) (k : Nat) :
    (ks.foldl (fun m k => m ||| BitVec.ofNat 32 (2 ^ k)) m).getLsbD k = (m.getLsbD k || decide (k < 32 ∧ k ∈ ks)) := by
  induction ks generalizing m with
  | nil => simp
  | cons j ks ih =>
    rw [List.foldl_cons, ih, BitVec.getLsbD_or, BitVec.getLsbD_ofNat, Nat.testBit_two_pow, Bool.or_assoc]
    congr 1
    by_cases hk : k < 32 <;> by_cases hj : j = k <;> simp [hk, hj, Ne.symm]

/-- The bits of a mask are the listed positions. -/
theorem bitMask_getLsbD (ks : List Nat) (k : Nat) : (bitMask ks).getLsbD k = decide (k < 32 ∧ k ∈ ks) := by
  rw [bitMask, bitMask_getLsbD_foldl]
  simp

/-- A reserved flag is a set bit that no flag of R102 uses. -/
theorem reservedSet_iff (c : Config) (flags : BitVec 32) :
    reservedSet c flags = true ↔ ∃ k, flags.getLsbD k = true ∧ k ∉ usedFlagBits c.flagBits := by
  have hbit : ∀ k, (flags &&& ~~~(bitMask (usedFlagBits c.flagBits))).getLsbD k = true ↔
      flags.getLsbD k = true ∧ k ∉ usedFlagBits c.flagBits := by
    intro k
    have hlt : flags.getLsbD k = true → k < 32 := BitVec.lt_of_getLsbD
    rw [BitVec.getLsbD_and, BitVec.getLsbD_not, bitMask_getLsbD]
    by_cases hk : k < 32 <;> simp [hk] at hlt ⊢
    simp [hlt]
  rw [reservedSet, decide_eq_true_eq]
  constructor
  · intro hne
    by_contra hnone
    refine hne (BitVec.eq_of_getLsbD_eq fun k _ => ?_)
    rw [BitVec.ofNat_eq_ofNat, BitVec.getLsbD_zero]
    exact Bool.eq_false_iff.2 fun hset => hnone ⟨k, (hbit k).1 hset⟩
  · rintro ⟨k, hk⟩ hzero
    have hset := (hbit k).2 hk
    rw [hzero, BitVec.ofNat_eq_ofNat, BitVec.getLsbD_zero] at hset
    cases hset

theorem kindOf_eq_none_iff (type : BitVec 32) : kindOf type = none ↔ 3 < type.toNat := by
  unfold kindOf
  generalize type.toNat = n
  rcases n with _ | _ | _ | _ | n <;> simp

theorem kindOf_commandExec_iff (type : BitVec 32) : kindOf type = some .commandExec ↔ type = 3#32 := by
  rw [← BitVec.toNat_inj]
  unfold kindOf
  generalize type.toNat = n
  rcases n with _ | _ | _ | _ | n <;> simp

theorem kindOf_transfer_iff (type : BitVec 32) :
    (kindOf type = some .read ∨ kindOf type = some .write) ↔ type.toNat < 2 := by
  unfold kindOf
  generalize type.toNat = n
  rcases n with _ | _ | _ | _ | n <;> simp

/-- A header that no burst may have (R121): an unknown type, a reserved flag bit, a JSTATE that names no state. -/
def BurstHeader.Malformed (g : Config) (hdr : BurstHeader) : Prop :=
  3 < hdr.type.toNat ∨ (∃ k, hdr.flags.getLsbD k = true ∧ k ∉ usedFlagBits g.flagBits) ∨
    6 ≤ hdr.flags.toNat / 2 ^ g.flagBits.jstateLo % 8

theorem malformed_iff (g : Config) (hdr : BurstHeader) :
    hdr.Malformed g ↔ kindOf hdr.type = none ∨ reservedSet g hdr.flags = true ∨ 6 ≤ jstateCode g hdr.flags := by
  rw [kindOf_eq_none_iff, reservedSet_iff]
  rfl

theorem burstRefused_malformed {g : Config} {hdr : BurstHeader} (c : Controller) (h : hdr.Malformed g) :
    burstRefused g c hdr = some .invalidArgument := by
  rw [malformed_iff] at h
  unfold burstRefused
  cases hk : kindOf hdr.type with
  | none => rfl
  | some kind =>
    simp only [hk, reduceCtorEq, false_or] at h
    dsimp only
    split_ifs with h1 h2
    · rfl
    · rfl
    · exact absurd h (not_or.2 ⟨h1, h2⟩)
    · exact absurd h (not_or.2 ⟨h1, h2⟩)
    · exact absurd h (not_or.2 ⟨h1, h2⟩)

/-- The tests of a header that is not malformed (R121). -/
theorem burstRefused_wellFormed {g : Config} {hdr : BurstHeader} (c : Controller) (h : ¬hdr.Malformed g) :
    burstRefused g c hdr =
      if hdr.type = 3#32 ∧ c.unit ∉ g.commandUnits then some .invalidOperation
      else if hdr.type.toNat < 2 ∧ hdr.length = 0#32 then some .invalidArgument
      else none := by
  rw [malformed_iff, not_or, not_or] at h
  obtain ⟨hkind, hflags, hstate⟩ := h
  obtain ⟨kind, hkind⟩ := Option.ne_none_iff_exists'.1 hkind
  simp only [← kindOf_commandExec_iff, ← kindOf_transfer_iff, burstRefused, hkind, if_neg hflags, if_neg hstate,
    Option.some.injEq, List.contains_eq_mem, decide_eq_false_iff_not]
  rfl

theorem runBurstEntry_open {c : Controller} {hdr : BurstHeader} {buf : List Half} {addr : Option Nat}
    (h : (s.host.burst c).isOpen = true) : runBurstEntry c hdr buf addr s = .error (.burstReentrant 121) := by
  rw [runBurstEntry, if_pos h]

/-- The state of a burst call after its entry: the call's arguments are kept, its status is `st`, and `ms` is to do. -/
def State.entered (s : State) (c : Controller) (hdr : BurstHeader) (buf : List Half) (addr : Option Nat) (st : Status)
    (ms : List Micro) : State :=
  s.setDrv { s.host.drv with
    stack := ms ++ s.host.drv.stack, status := st, ctl := c, hdr := hdr, buf := buf, addr := addr }

/-- What a burst that is not refused does first: a bank view activates its bank. -/
def openingOf (c : Controller) : List Micro :=
  match c with
  | .i2cBank b => [.run (.i2cActivate b), .run .burstOpen]
  | _ => [.run .burstOpen]

theorem runBurstEntry_refused {c : Controller} {hdr : BurstHeader} {buf : List Half} {addr : Option Nat} {st : Status}
    (h : (s.host.burst c).isOpen = false) (href : burstRefused s.cfg c hdr = some st) :
    runBurstEntry c hdr buf addr s = .ok (s.entered c hdr buf addr st []) := by
  simp only [runBurstEntry, h, href]
  rfl

theorem runBurstEntry_goes_on {c : Controller} {hdr : BurstHeader} {buf : List Half} {addr : Option Nat}
    (h : (s.host.burst c).isOpen = false) (href : burstRefused s.cfg c hdr = none) (hok : s.host.drv.status = .ok) :
    runBurstEntry c hdr buf addr s = .ok (s.entered c hdr buf addr .ok (openingOf c)) := by
  rw [← hok]
  simp only [runBurstEntry, h, href]
  cases c <;> rfl

/-- Settles O54: the tests of `burstRefused`, in their order. -/
theorem burstRefusals : Obligations.BurstRefusals := by
  unfold Obligations.BurstRefusals
  intro c hdr buf addr rest s hstack hok ends bad noCommands empty
  have hstep : driverStep s = toOutcome (runBurstEntry c hdr buf addr s.pop) := by
    rw [driverStep_top hstack, microStep_run_ok hok, runProc]
  have hends : ∀ st ms, runBurstEntry c hdr buf addr s.pop = .ok (s.pop.entered c hdr buf addr st ms) → ends st ms := by
    intro st ms h
    have hstep' : driverStep s = .next (s.pop.entered c hdr buf addr st ms) := by rw [hstep, h, toOutcome_ok]
    rw [pop_eq hstack] at hstep'
    exact hstep'
  refine ⟨fun hopen => ?isOpen, fun hclosed => ?closed⟩
  case isOpen => rw [hstep, runBurstEntry_open (s := s.pop) hopen, toOutcome_error]
  case closed =>
    refine ⟨fun hbad => ?_, fun hgood hcmd => ?_, fun hgood hcmd hempty => ?_, fun hgood hcmd hfull => ?_⟩
    · exact hends _ _ (runBurstEntry_refused (s := s.pop) hclosed (burstRefused_malformed c hbad))
    · exact hends _ _ (runBurstEntry_refused (s := s.pop) hclosed
        ((burstRefused_wellFormed c hgood).trans (if_pos hcmd)))
    · exact hends _ _ (runBurstEntry_refused (s := s.pop) hclosed
        ((burstRefused_wellFormed c hgood).trans ((if_neg hcmd).trans (if_pos hempty))))
    · exact hends .ok (openingOf c) (runBurstEntry_goes_on (s := s.pop) hclosed
        ((burstRefused_wellFormed c hgood).trans ((if_neg hcmd).trans (if_neg hfull))) hok)

end Sys2Proof.Machine
end

section
/-! Proofs about the serial units: the accesses of SPI-v2 (R271 to R276), the lines of SPI-dual (R303), the frames of JTAG
(R341). -/

namespace Sys2Proof.Machine

variable {s : State}

/-! ## SPI-v2 -/

theorem spi2Step_unwritten {a : Spi2Access} {rest : List Spi2Access} (hq : s.spi2.accq = a :: rest)
    (hv : a.ctl.valid = true) (hrw : a.ctl.rw = false) (hk : a.txdKnown = false) :
    spi2Step s = .error (.unwritten 271) := by
  simp [spi2Step, hq, hv, hrw, hk]

/-- Without a write of an unknown data register the oldest control write is performed. -/
theorem spi2Step_performs {a : Spi2Access} {rest : List Spi2Access} (hq : s.spi2.accq = a :: rest)
    (hok : a.ctl.valid = true → a.ctl.rw = false → a.txdKnown = true) :
    spi2Step s = .ok (spi2Perform a { s with spi2 := { s.spi2 with accq := rest } }) := by
  have htest : (a.ctl.valid && !a.ctl.rw && !a.txdKnown) = false := by
    cases hv : a.ctl.valid <;> cases hrw : a.ctl.rw <;> simp [hv, hrw] at hok ⊢
    exact hok
  simp only [spi2Step, hq, htest, Bool.false_eq_true, if_false]

/-- The unit with the fields of a control word latched (R272). -/
def Spi2Unit.latch (u : Spi2Unit) (c : Spi2Ctl) : Spi2Unit := { u with ctrl := { c with valid := false }, ctrlKnown := true }

/-- The machine before the access of a control write: its fields latched, the controller no longer fresh. -/
def State.latched (s : State) (c : Spi2Ctl) : State := { s with spi2 := { s.spi2.latch c with fresh := false } }

theorem spi2Perform_eq (a : Spi2Access) (s : State) :
    spi2Perform a s =
      if a.ctl.valid then
        (if a.ctl.rw then spi2ReadAccess a.ctl s.spi2.fresh (s.latched a.ctl)
          else spi2WriteBytes a.ctl a.txd s.spi2.fresh (spi2Count a.ctl) 0 (s.latched a.ctl)).record (.spi2Done a.ctl)
      else { s with spi2 := s.spi2.latch a.ctl, history := s.history ++ [.spi2Done a.ctl] } := rfl

theorem spi2Perform_no_access {a : Spi2Access} (hv : a.ctl.valid = false) (s : State) :
    spi2Perform a s = { s with spi2 := s.spi2.latch a.ctl, history := s.history ++ [.spi2Done a.ctl] } := by
  rw [spi2Perform_eq, hv]
  rfl

theorem spi2Perform_write {a : Spi2Access} (hv : a.ctl.valid = true) (hrw : a.ctl.rw = false) (s : State) :
    spi2Perform a s = { s.latched a.ctl with
      history := s.history ++
        (List.range (a.ctl.cntM1.toNat + 1)).map (fun i =>
          .spiWrite a.ctl.dev a.ctl.quad a.ctl.cs (BitVec.ofNat 8 (a.txd.toNat / 2 ^ (8 * i))) s.spi2.fresh) ++
        [.spi2Done a.ctl] } := by
  rw [spi2Perform_eq, if_pos hv, if_neg (by rw [hrw]; exact Bool.false_ne_true), spi2WriteBytes_eq]
  simp only [byteAt_eq, Nat.zero_add]
  rfl

/-- The question for each byte of a read access (R274, R276). -/
def spi2Query (g : Config) (c : Spi2Ctl) (fresh : Bool) : Oracle :=
  if c.cs = true ∧ fresh = false ∧ c.dev.toNat < 2 ^ g.spi2DevBits then .spiByte c.dev c.quad else .spiUndriven

theorem spi2Query_eq (g : Config) (c : Spi2Ctl) (fresh : Bool) :
    spi2Query g c fresh = if spi2Selects g c && !fresh then .spiByte c.dev c.quad else .spiUndriven := by
  have htests : (spi2Selects g c && !fresh) = true ↔ c.cs = true ∧ fresh = false ∧ c.dev.toNat < 2 ^ g.spi2DevBits := by
    simp [spi2Selects, and_assoc, and_comm (a := fresh = false)]
  simp only [spi2Query, htests]

/-- A read access: one answer for each byte, in one entry. -/
theorem spi2Perform_read {a : Spi2Access} (hv : a.ctl.valid = true) (hrw : a.ctl.rw = true) (s : State) :
    ∃ (v : Nat → RegVal) (e : RegVal),
      spi2Perform a s = { s with
        spi2 := { (s.latched a.ctl).spi2 with rdq := s.spi2.rdq ++ [e] }
        env := ⟨s.env.answers.drop (a.ctl.cntM1.toNat + 1), s.env.drawn + (a.ctl.cntM1.toNat + 1)⟩
        history := s.history ++
          (List.range (a.ctl.cntM1.toNat + 1)).map (fun i => .answer (spi2Query s.cfg a.ctl s.spi2.fresh) (v i)) ++
          [.spiRead a.ctl.dev a.ctl.quad a.ctl.cs e (a.ctl.cntM1.toNat + 1), .spi2Done a.ctl] } ∧
      (∀ i < a.ctl.cntM1.toNat + 1, i < s.env.answers.length → s.env.answers[i]? = some (v i)) ∧
      ∀ i < 4, e.toNat / 2 ^ (8 * i) % 256 = if i < a.ctl.cntM1.toNat + 1 then (v i).toNat % 256 else 0 := by
  have hcount : 0 + (a.ctl.cntM1.toNat + 1) ≤ 4 := by have := a.ctl.cntM1.isLt; omega
  obtain ⟨v, hstate, hanswers, hbytes⟩ := spi2ReadBytes_spec a.ctl s.spi2.fresh (spi2Query s.cfg a.ctl s.spi2.fresh)
    (a.ctl.cntM1.toNat + 1) 0 0 (s.latched a.ctl) (spi2Query_eq ..) hcount (by simp)
  simp only [Nat.zero_add] at hstate hanswers hbytes
  refine ⟨v, _, ?_, hanswers, fun i hi => by rw [hbytes i hi, if_neg (Nat.not_lt_zero i)]⟩
  rw [spi2Perform_eq, if_pos hv, if_pos hrw]
  simp only [spi2ReadAccess, spi2Count, hstate, State.record, List.append_assoc, List.singleton_append]
  rfl

/-- Settles O36: the four kinds of control write. -/
theorem spi2Accesses : Obligations.Spi2Accesses := by
  unfold Obligations.Spi2Accesses
  intro a rest s hq n latched
  have hperform : (a.ctl.valid = true → a.ctl.rw = false → a.txdKnown = true) →
      agentStep .spi2 s = .next (spi2Perform a { s with spi2 := { s.spi2 with accq := rest } }) := fun hok => by
    rw [agentStep, spi2Step_performs hq hok, toOutcome_ok]
  refine ⟨by simp [enabled, spi2Enabled, hq], fun hv => ?latchOnly, fun hv hrw hk => ?unwritten, fun hv hrw hk => ?write,
    fun hv hrw => ?read⟩
  case latchOnly =>
    rw [hperform (fun h => by rw [hv] at h; cases h), spi2Perform_no_access hv]
    rfl
  case unwritten => rw [agentStep, spi2Step_unwritten hq hv hrw hk, toOutcome_error]
  case write =>
    rw [hperform (fun _ _ => hk), spi2Perform_write hv hrw]
    rfl
  case read =>
    obtain ⟨v, e, hstate, hanswers, hbytes⟩ := spi2Perform_read hv hrw { s with spi2 := { s.spi2 with accq := rest } }
    refine ⟨v, e, ?_, hanswers, hbytes⟩
    rw [hperform (fun _ h => by rw [hrw] at h; cases h), hstate]
    rfl

/-! ## SPI-dual -/

/-- The control register is known and drives this line. -/
def SpidUnit.drives (u : SpidUnit) (i : Nat) : Bool := u.ctrlKnown && u.ctrl.oe.getLsbD i

/-- The level of a line: driven, or bit 0 of the environment's answer `v` (R303). -/
def SpidUnit.level (u : SpidUnit) (i : Nat) (v : RegVal) : Bool :=
  if u.drives i then u.ctrl.dout.getLsbD i else v.getLsbD 0

/-- The lines of a list, read in its order: the bits and the state left. -/
def spidLines : List Nat → State → List Bool × State
  | [], s => ([], s)
  | i :: is, s => ((spidLine i s).1 :: (spidLines is (spidLine i s).2).1, (spidLines is (spidLine i s).2).2)

theorem readSpidIn_eq (s : State) :
    readSpidIn s = .ok (
      bitAt ((spidLines (List.range 4) s).1[0]?.getD false) 0 ||| bitAt ((spidLines (List.range 4) s).1[1]?.getD false) 1 |||
      bitAt ((spidLines (List.range 4) s).1[2]?.getD false) 2 ||| bitAt ((spidLines (List.range 4) s).1[3]?.getD false) 3,
      (spidLines (List.range 4) s).2) := rfl

theorem spidLine_driven {i : Nat} (h : s.spid.drives i = true) : spidLine i s = (s.spid.ctrl.dout.getLsbD i, s) :=
  if_pos h

theorem spidLine_free {i : Nat} (h : s.spid.drives i = false) :
    spidLine i s = ((s.nextAnswer (.spidLine s.spid.select i)).getLsbD 0, s.answered (.spidLine s.spid.select i)) :=
  if_neg (by rw [SpidUnit.drives] at h; rw [h]; exact Bool.false_ne_true)

/-- The lines of a list: those that the control register drives read back, each other one is one answer, in line order. -/
theorem spidLines_spec (l : List Nat) (hl : l.Nodup) (s : State) :
    ∃ a : Nat → RegVal,
      (spidLines l s).2 = { s with
        env := ⟨s.env.answers.drop (l.filter (fun i => !s.spid.drives i)).length,
          s.env.drawn + (l.filter (fun i => !s.spid.drives i)).length⟩
        history := s.history ++ (l.filter (fun i => !s.spid.drives i)).map (fun i => .answer (.spidLine s.spid.select i) (a i)) } ∧
      (∀ j < (l.filter (fun i => !s.spid.drives i)).length, j < s.env.answers.length →
        s.env.answers[j]? = ((l.filter (fun i => !s.spid.drives i))[j]?).map a) ∧
      (spidLines l s).1 = l.map (fun i => s.spid.level i (a i)) := by
  induction l generalizing s with
  | nil => exact ⟨fun _ => 0, by simp [spidLines], by simp, rfl⟩
  | cons i l ih =>
    obtain ⟨hi, hl⟩ := List.nodup_cons.1 hl
    cases hdrive : s.spid.drives i with
    | true =>
      obtain ⟨a, hstate, hanswers, hbits⟩ := ih hl s
      have hfree : (i :: l).filter (fun i => !s.spid.drives i) = l.filter (fun i => !s.spid.drives i) := by
        simp [hdrive]
      rw [hfree]
      refine ⟨a, ?_, hanswers, ?_⟩
      · rw [spidLines, spidLine_driven hdrive, hstate]
      · rw [spidLines, spidLine_driven hdrive, hbits, List.map_cons, SpidUnit.level, if_pos hdrive]
    | false =>
      set q : Oracle := .spidLine s.spid.select i with hq
      obtain ⟨a, hstate, hanswers, hbits⟩ := ih hl (s.answered q)
      simp only [State.answered_spid, State.answered_env, State.answered_history] at hstate hanswers hbits
      have hfree : (i :: l).filter (fun i => !s.spid.drives i) = i :: l.filter (fun i => !s.spid.drives i) := by
        simp [hdrive]
      have hother : ∀ k ∈ l, (if k = i then s.nextAnswer q else a k) = a k := fun k hk =>
        if_neg (by rintro rfl; exact hi hk)
      rw [hfree, spidLines, spidLine_free hdrive]
      refine ⟨fun k => if k = i then s.nextAnswer q else a k, ?_, ?_, ?_⟩
      · have hevents : (l.filter (fun i => !s.spid.drives i)).map
              (fun k => Event.answer (.spidLine s.spid.select k) (if k = i then s.nextAnswer q else a k)) =
            (l.filter (fun i => !s.spid.drives i)).map (fun k => Event.answer (.spidLine s.spid.select k) (a k)) :=
          List.map_congr_left fun k hk => by rw [hother k (List.mem_of_mem_filter hk)]
        rw [hstate, List.map_cons, hevents]
        simp only [State.answered, if_true, List.length_cons, List.append_assoc, List.singleton_append, List.drop_tail,
          Nat.add_assoc, Nat.add_comm 1, hq]
      · intro j hj hlen
        cases hlist : s.env.answers with
        | nil => rw [hlist] at hlen; cases hlen
        | cons v vs =>
          cases j with
          | zero => simp [State.nextAnswer, hlist]
          | succ j =>
            rw [hlist] at hanswers hlen
            rw [List.getElem?_cons_succ, List.getElem?_cons_succ,
              ← List.tail_cons (a := v) (as := vs), hanswers j (Nat.lt_of_succ_lt_succ hj) (Nat.lt_of_succ_lt_succ hlen)]
            cases hk : (l.filter (fun i => !s.spid.drives i))[j]? with
            | none => rfl
            | some k => exact congrArg some (hother k (List.mem_of_mem_filter (List.mem_of_getElem? hk))).symm
      · have hrest : l.map (fun k => s.spid.level k (if k = i then s.nextAnswer q else a k)) =
            l.map (fun k => s.spid.level k (a k)) :=
          List.map_congr_left fun k hk => by rw [hother k hk]
        rw [hbits, List.map_cons, hrest]
        simp [SpidUnit.level, hdrive, hq]

/-- The four bits of the result are its only bits. -/
theorem spidIn_getLsbD (b0 b1 b2 b3 : Bool) (i : Nat) :
    (bitAt b0 0 ||| bitAt b1 1 ||| bitAt b2 2 ||| bitAt b3 3).getLsbD i =
      ((decide (i = 0) && b0) || (decide (i = 1) && b1) || (decide (i = 2) && b2) || (decide (i = 3) && b3)) := by
  simp [BitVec.getLsbD_or, bitAt_getLsbD]

theorem spidIn_lt (b0 b1 b2 b3 : Bool) : (bitAt b0 0 ||| bitAt b1 1 ||| bitAt b2 2 ||| bitAt b3 3).toNat < 16 := by
  refine Nat.lt_pow_two_of_testBit (n := 4) _ fun j hj => ?_
  rw [BitVec.testBit_toNat, spidIn_getLsbD]
  have hj : j ≠ 0 ∧ j ≠ 1 ∧ j ≠ 2 ∧ j ≠ 3 := by omega
  simp [hj]

/-- Settles O38: the four lines in order. -/
theorem spidInputRead : Obligations.SpidInputRead := by
  unfold Obligations.SpidInputRead
  refine ⟨rfl, ?_⟩
  intro s hd driven select free
  obtain ⟨a, hstate, hanswers, hbits⟩ := spidLines_spec (List.range 4) List.nodup_range s
  have heffect : readEffect .spidRin s = readSpidIn s := rfl
  rw [readSpidIn_eq, hstate, hbits] at heffect
  refine ⟨a, _, exec_read_direct hd rfl heffect, hanswers, spidIn_lt .., fun i hi => ?_⟩
  rw [spidIn_getLsbD]
  have hlevel : i = 0 ∨ i = 1 ∨ i = 2 ∨ i = 3 := by omega
  rcases hlevel with rfl | rfl | rfl | rfl <;> simp [SpidUnit.level, SpidUnit.drives, driven]

/-! ## JTAG -/

/-- Settles O41: the clocks of the frame from the first one on, with no bit captured yet. -/
theorem jtagFrameCompletes : Obligations.JtagFrameCompletes := by
  unfold Obligations.JtagFrameCompletes
  intro s hbusy hcount p at'
  obtain ⟨a, hstate, hanswers, hbits⟩ := jtagClocks_spec p p.count 0 0 s ((Nat.zero_add _).le.trans hcount) (by simp)
  simp only [Nat.zero_add] at hstate hanswers hbits
  refine ⟨hbusy, a, (jtagClocks p p.count 0 0 s).1, ?_, hanswers, fun i hi => ?_⟩
  · simp only [agentStep, jtagStep]
    rw [hstate]
  · rw [hbits i hi, if_neg (Nat.not_lt_zero i)]

end Sys2Proof.Machine
end

section
/-! Proofs about the register path (20_memory.md): posted writes and their performing. -/

namespace Sys2Proof.Machine

variable {i : Instr} {s t : State}

/-! ## Posting a write (R81) -/

/-- Only a command at a full command FIFO has no room (R221). -/
theorem hasRoom_iff (i : Instr) (s : State) :
    hasRoom i s = true ↔ ∀ c, i = .bpiCmd c → s.bpi.cmdq.length < s.cfg.bpiCmdFifoDepth := by
  cases i <;> simp [hasRoom]

/-- A write waits for its room only. -/
theorem accepts_write (hw : i.isWrite = true) : accepts i s = hasRoom i s := by
  rw [← Bool.and_true (hasRoom i s)]
  unfold accepts
  cases s.cfg.regOrder <;> cases i <;> trivial

/-- With posted writes a write that has room joins the posted writes. -/
theorem exec_write_posts (hw : i.isWrite = true) (hok : accessFault s.cfg i = none)
    (hord : s.cfg.regOrder = .postedUntilBarrier) (hroom : hasRoom i s = true) : exec i s = .next (s.post i).advance := by
  rw [exec_write s hw, hostWrite, accepts_write hw, if_pos hroom, issueWrite, hok, hord]
  rfl

/-- Settles O10: a write has room, or it is a command at a full FIFO. -/
theorem postedWrites : Obligations.PostedWrites := by
  unfold Obligations.PostedWrites
  intro i s hw hok hord waits
  refine ⟨fun hgoes => ?posts, fun hwaits => ?waits⟩
  case posts =>
    have hroom : hasRoom i s = true := (hasRoom_iff i s).2 fun c hc => by
      by_contra hfull
      exact hgoes ⟨⟨c, hc⟩, Nat.not_lt.1 hfull⟩
    exact exec_write_posts hw hok hord hroom
  case waits =>
    obtain ⟨⟨c, rfl⟩, hfull⟩ := hwaits
    obtain ⟨-, -, hwait⟩ := bpiCommandWrite c s
    exact hwait hfull

/-! ## The words that post nothing (R407) -/

/-- The machine with accesses in order. -/
def State.ordered (s : State) : State := { s with cfg := { s.cfg with regOrder := .inOrder } }

/-- `t` with the parameters of `s`, its posted writes, and neither a write before nor a fence. -/
def State.settled (s t : State) : State :=
  { t with cfg := s.cfg, path := { s.path with prevWrite := none, fence := none } }

@[simp] theorem ordered_i2c (s : State) : s.ordered.i2c = s.i2c := by cases s; rfl
@[simp] theorem ordered_bpi (s : State) : s.ordered.bpi = s.bpi := by cases s; rfl
@[simp] theorem ordered_cpld (s : State) : s.ordered.cpld = s.cpld := by cases s; rfl
@[simp] theorem ordered_spi2 (s : State) : s.ordered.spi2 = s.spi2 := by cases s; rfl
@[simp] theorem ordered_spid (s : State) : s.ordered.spid = s.spid := by cases s; rfl
@[simp] theorem ordered_jtag (s : State) : s.ordered.jtag = s.jtag := by cases s; rfl
@[simp] theorem ordered_host (s : State) : s.ordered.host = s.host := rfl
@[simp] theorem ordered_depth (s : State) : s.ordered.cfg.bpiReadFifoDepth = s.cfg.bpiReadFifoDepth := by cases s; rfl
@[simp] theorem ordered_verify (s : State) : s.ordered.cfg.bpiBankVerify = s.cfg.bpiBankVerify := by cases s; rfl
@[simp] theorem ordered_nextAnswer (s : State) (q : Oracle) : s.ordered.nextAnswer q = s.nextAnswer q := by cases s; rfl
@[simp] theorem ordered_answered (s : State) (q : Oracle) : s.ordered.answered q = (s.answered q).ordered := rfl

theorem ordered_passFence (s : State) : s.ordered.passFence = s.ordered := s.ordered.passFence_inOrder rfl

theorem passFence_eq_settled (hord : s.cfg.regOrder = .postedUntilBarrier) : s.passFence = s.settled s.ordered := by
  rw [passFence_posted hord]
  rfl

@[simp] theorem settled_nextAnswer (s t : State) (q : Oracle) : (s.settled t).nextAnswer q = t.nextAnswer q := by
  cases t; rfl

theorem settled_pollFailed (b : Bool) (s t : State) : pollFailed b (s.settled t) = s.settled (pollFailed b t) := by
  unfold pollFailed pollExpired
  cases b
  · rfl
  · simp only [if_true, drawBit_eq, settled_nextAnswer]
    split <;> rfl

theorem spidLine_ordered (k : Nat) (s : State) :
    spidLine k s.ordered = ((spidLine k s).1, (spidLine k s).2.ordered) := by
  simp only [spidLine, ordered_spid, drawBit_eq, ordered_nextAnswer, ordered_answered]
  split <;> rfl

/-- The result of a read does not depend on the order of accesses. -/
theorem readEffect_ordered (i : Instr) (s : State) :
    readEffect i s.ordered = mapRead State.ordered (readEffect i s) := by
  cases i with
  | i2cRpreLo b => simp only [readEffect, readI2cPreLo, ordered_i2c]; split <;> rfl
  | i2cRpreHi b => simp only [readEffect, readI2cPreHi, ordered_i2c]; split <;> rfl
  | i2cRctrl b => simp only [readEffect, readI2cCtrl, ordered_i2c]; split <;> rfl
  | i2cRdata b => simp only [readEffect, readI2cData, ordered_i2c]; split <;> rfl
  | bpiRdata =>
    simp only [readEffect, readBpiData, ordered_bpi, ordered_depth, drawBit_eq, ordered_nextAnswer, ordered_answered]
    split <;> rfl
  | bpiRbank =>
    simp only [readEffect, readBpiBank, ordered_cpld, ordered_verify, drawByte_eq, ordered_nextAnswer, ordered_answered]
    split <;> rfl
  | spi2Rctrl =>
    simp only [readEffect, readSpi2Ctrl, ordered_spi2, draw_eq, ordered_nextAnswer, ordered_answered]
    split <;> rfl
  | spi2Rdata => simp only [readEffect, readSpi2Data, ordered_spi2]; split <;> rfl
  | spidRin => simp only [readEffect, readSpidIn, spidLine_ordered, mapRead]
  | jtagRtdo =>
    simp only [readEffect, readJtagTdo, ordered_jtag, drawHalf_eq, ordered_nextAnswer, ordered_answered]
    split <;> rfl
  | _ => rfl

/-- A read under posted writes, from the read in order. -/
theorem exec_read_posted (hr : i.isRead = true) (hord : s.cfg.regOrder = .postedUntilBarrier) (ha : accepts i s = true) :
    exec i s = mapNext s.settled (exec i s.ordered) := by
  have ha' : accepts i s.ordered = true := by
    have hroom : hasRoom i s = true := hasRoom_of_accepts ha
    exact (accepts_inOrder (s := s.ordered) rfl).trans hroom
  have hfault : accessFault s.ordered.cfg i = accessFault s.cfg i := rfl
  rw [exec_read s hr, exec_read s.ordered hr, hostRead, hostRead, if_pos ha, if_pos ha', issueRead, issueRead, hfault]
  cases accessFault s.cfg i with
  | some e => rfl
  | none =>
    rw [readEffect_ordered]
    cases heffect : readEffect i s with
    | error e => rfl
    | ok r =>
      obtain ⟨v, u⟩ := r
      have hwithin := readEffect_within heffect
      have hcfg : u.cfg = s.cfg := hwithin.cfg
      have hpath : u.path = s.path := hwithin.path
      have hposted : ((u.setLast v).record (.access i v)).passFence =
          s.settled ((u.ordered.setLast v).record (.access i v)) := by
        rw [passFence_posted (by rw [State.record_cfg, State.setLast_cfg, hcfg, hord]), State.settled, ← hcfg, ← hpath]
        rfl
      have hinOrder : ((u.ordered.setLast v).record (.access i v)).passFence = (u.ordered.setLast v).record (.access i v) :=
        State.passFence_inOrder _ rfl
      simp only [mapRead, hposted, hinOrder]
      rfl

/-- A poll, check or halt under posted writes, from the same in order. -/
theorem exec_host_posted (hh : i.isHost = true) (hbarrier : i ≠ .hostBarrier) (hb2b : i ≠ .hostB2b)
    (hord : s.cfg.regOrder = .postedUntilBarrier) : exec i s = mapNext s.settled (exec i s.ordered) := by
  have hfence := passFence_eq_settled hord
  cases i with
  | hostPoll k p =>
    have hpoll : polledRead s.ordered = polledRead s := rfl
    simp only [exec, execHostPoll, hpoll, hfence, ordered_passFence, ordered_host, settled_pollFailed]
    split
    · rfl
    · split_ifs <;> rfl
  | hostCheck k p st =>
    simp only [exec, execHostCheck, hfence, ordered_passFence, ordered_host]
    split
    · rfl
    · split_ifs <;> rfl
  | hostHalt st =>
    simp only [exec, execHostHalt, hfence, ordered_passFence]
    split <;> rfl
  | hostBarrier => exact absurd rfl hbarrier
  | hostB2b => exact absurd rfl hb2b
  | _ => cases hh

/-- A host operation other than a barrier is always accepted. -/
theorem accepts_host (hh : i.isHost = true) (hbarrier : i ≠ .hostBarrier) : accepts i s = true := by
  unfold accepts
  cases s.cfg.regOrder <;> cases i <;> trivial

/-- Settles O11: a read, or a host operation that is no fence. -/
theorem postedOtherWords : Obligations.PostedOtherWords := by
  unfold Obligations.PostedOtherWords
  intro i s hw hbarrier hb2b hord
  rcases instr_kind i with hw' | hr | hh
  · rw [hw] at hw'
    cases hw'
  · refine ⟨fun ha => ?_, exec_read_posted hr hord⟩
    rw [exec_read s hr, hostRead, ha]
    rfl
  · refine ⟨fun ha => ?_, fun _ => exec_host_posted hh hbarrier hb2b hord⟩
    rw [accepts_host hh hbarrier] at ha
    cases ha

/-! ## Performing a posted write (R81, R82) -/

theorem sameRegister_iff (c : Config) (i j : Instr) :
    sameRegister c i j = true ↔ (regEntry c i).map RegEntry.addr = (regEntry c j).map RegEntry.addr :=
  decide_eq_true_iff

/-- The posted writes before a position, by their positions. -/
theorem forall_mem_take_iff {α : Type} (l : List α) (k : Nat) (p : α → Prop) :
    (∀ e ∈ l.take k, p e) ↔ ∀ j < k, ∀ e, l[j]? = some e → p e := by
  constructor
  · intro h j hj e he
    exact h e (List.mem_of_getElem? (i := j) (by rw [List.getElem?_take_of_lt hj, he]))
  · intro h e he
    obtain ⟨j, hj⟩ := List.mem_iff_getElem?.1 he
    have hjk : j < k := by
      by_contra hge
      rw [List.getElem?_take_eq_none (Nat.not_lt.1 hge)] at hj
      cases hj
    rw [List.getElem?_take_of_lt hjk] at hj
    exact h j hjk e hj

/-- When the posted write `w` at position `k` may be performed. -/
theorem busEnabled_iff {k : Nat} {w : PostedWrite} (hw : s.path.posted[k]? = some w) :
    busEnabled k s = true ↔
      (∀ j < k, ∀ e, s.path.posted[j]? = some e →
        (regEntry s.cfg e.instr).map RegEntry.addr ≠ (regEntry s.cfg w.instr).map RegEntry.addr) ∧
      (∀ n, w.after = some n → ∀ e ∈ s.path.posted, e.id ≠ n) ∧
      (∀ c, w.instr = .bpiCmd c → s.bpi.cmdq.length < s.cfg.bpiCmdFifoDepth) := by
  have hregisters : ((s.path.posted.take k).all fun e => !sameRegister s.cfg e.instr w.instr) = true ↔
      ∀ j < k, ∀ e, s.path.posted[j]? = some e →
        (regEntry s.cfg e.instr).map RegEntry.addr ≠ (regEntry s.cfg w.instr).map RegEntry.addr := by
    rw [← forall_mem_take_iff, List.all_eq_true]
    simp only [Bool.not_eq_true', ← Bool.not_eq_true, sameRegister_iff, ne_eq]
  simp only [busEnabled, hw, postedReady, Bool.and_eq_true, hregisters, hasRoom_iff, and_assoc]
  refine and_congr_right fun _ => and_congr_left fun _ => ?_
  cases w.after <;> simp [RegPath.pending]

theorem busStep_eq {k : Nat} {w : PostedWrite} (hw : s.path.posted[k]? = some w) :
    busStep k s = mapOk (fun t => t.recordWrite w.instr) (writeEffect w.instr (s.dropPosted k)) := by
  simp only [busStep, hw]

/-- Settles O12: the three tests of `postedReady`; the step is the write's effect on the machine without it. -/
theorem postedWritesPerformed : Obligations.PostedWritesPerformed := by
  unfold Obligations.PostedWritesPerformed
  intro k s w hw
  have hstep := busStep_eq hw
  refine ⟨busEnabled_iff hw, fun t ht => ?performed, fun u hu => ?succeeds, fun e he => ?faults⟩
  case performed =>
    rw [hstep] at ht
    obtain ⟨u, hu, rfl⟩ := mapOk_cases ht
    have hwithin := writeEffect_within hu
    have hpath : u.path = { s.path with posted := s.path.posted.eraseIdx k } := hwithin.path
    refine ⟨hpath, hwithin.host, hwithin.cfg, u, ?_, rfl⟩
    rw [State.recordWrite_path, hpath]
    exact hu
  case succeeds =>
    have heffect : writeEffect w.instr (s.dropPosted k) = .ok u := hu
    rw [hstep, heffect]
    rfl
  case faults =>
    have heffect : writeEffect w.instr (s.dropPosted k) = .error e := he
    rw [hstep, heffect]
    rfl

end Sys2Proof.Machine
end

section
/-! Proofs about the BPI command engine (43_bpi.md): what a step does to the command at the head of its FIFO. Each part of a step in
closed form first, then the commands by their access. -/

namespace Sys2Proof.Machine

variable {c : RegVal} {rest : List RegVal} {s t : State}

/-! ## The parts of a step in closed form -/

theorem bpiFinish_eq (c : RegVal) (t : State) :
    bpiFinish c t = { t with
      bpi := { t.bpi with
        cmdq := t.bpi.cmdq.tail
        cs := if cmdDeassertCs c then false else t.bpi.cs
        csKnown := if cmdDeassertCs c then true else t.bpi.csKnown }
      history := t.history ++ [.bpiDone c] } := rfl

/-- The machine after one flash read at `a`: the word joins the read FIFO. -/
def State.fetched (t : State) (a : BitVec 24) : State :=
  { t.answered (flashQuery t.bpi.cs t.cpld.bankEff a) with
    bpi := { t.bpi with
      addr := a
      rdq := t.bpi.rdq ++ [flashAnswer t.cfg (t.nextAnswer (flashQuery t.bpi.cs t.cpld.bankEff a))] } }

theorem bpiReadWord_eq (t : State) :
    bpiReadWord t =
      { t.fetched t.bpi.addr with bpi := { (t.fetched t.bpi.addr).bpi with primed := 1 } } := by
  unfold bpiReadWord
  rw [flashRead_eq]
  rfl

theorem bpiReadInc_eq (t : State) :
    bpiReadInc t = { t.fetched (nextFlashAddr t.cfg t.bpi.addr) with
      bpi := { (t.fetched (nextFlashAddr t.cfg t.bpi.addr)).bpi with
        primed := if t.bpi.primed = 1 ∨ t.bpi.primed = 2 then t.bpi.primed + 1 else t.bpi.primed } } := by
  simp only [bpiReadInc, flashRead_eq]
  rfl

theorem bpiBurstStep_eq (c : RegVal) {m : Nat} (hm : t.bpi.burstLeft = m + 1) :
    bpiBurstStep c t =
      let u := { t.fetched (nextFlashAddr t.cfg t.bpi.addr) with
        bpi := { (t.fetched (nextFlashAddr t.cfg t.bpi.addr)).bpi with burstLeft := m } }
      if m = 0 then bpiFinish c u else u := by
  simp only [bpiBurstStep, flashRead_eq, hm, Nat.add_sub_cancel]
  rfl

/-- The question for a status word (R226). -/
def statusQuery (cs : Bool) (bank : Byte) : Oracle := if cs then .flashStatus bank else .flashUndriven

/-- The status word pushed (R226): a deselected one keeps its 16 bits. -/
def statusWord (t : State) (cs : Bool) : Half :=
  if cs then flashAnswer t.cfg (t.nextAnswer (statusQuery cs t.cpld.bankEff))
  else (t.nextAnswer (statusQuery cs t.cpld.bankEff)).setWidth 16

theorem bpiStatusStep_eq (c : RegVal) (t : State) :
    bpiStatusStep c t =
      let u := { t.answered (statusQuery t.bpi.cs t.cpld.bankEff) with
        bpi := { t.bpi with rdq := t.bpi.rdq ++ [statusWord t t.bpi.cs] } }
      if (statusWord t t.bpi.cs).getLsbD 7 then bpiFinish c { u with bpi := { u.bpi with waiting := false } } else u := by
  have hword : flashStatus t = (statusWord t t.bpi.cs, t.answered (statusQuery t.bpi.cs t.cpld.bankEff)) := by
    rw [flashStatus_eq]
    unfold statusWord statusQuery
    cases t.bpi.cs <;> rfl
  unfold bpiStatusStep
  rw [hword]
  rfl

theorem bpiWriteWord_eq (c : RegVal) (t : State) :
    bpiWriteWord c t =
      let a := if cmdInc c then nextFlashAddr t.cfg t.bpi.addr else t.bpi.addr
      { t with
        bpi := { t.bpi with addr := a, primed := 0 }
        history := t.history ++ (if t.bpi.cs then [.flashWrite t.cpld.bankEff a (cmdData c)] else []) } := by
  unfold bpiWriteWord
  cases hinc : cmdInc c <;> cases hcs : t.bpi.cs <;> simp [hcs, State.record]

/-! ## The access of a command by its bits -/

/-- The machine with the chip select and the address of a command (R223, R224). -/
def State.opened (c : RegVal) (s : State) : State := bpiLoad c (bpiAssert c s)

theorem opened_eq (c : RegVal) (s : State) :
    s.opened c = { s with bpi := { s.bpi with
      cs := selectedAt c s.bpi
      csKnown := cmdAssertCs c || s.bpi.csKnown
      addr := addressAt c s.bpi
      addrKnown := cmdLoadAddr c || s.bpi.addrKnown
      primed := if cmdLoadAddr c then 0 else s.bpi.primed } } := bpiLoad_assert c s

/-- A command without a fault is started by the engine. -/
theorem bpiStep_access (h : EngineAt c rest s.bpi) (hf : bpiStartFault c s = none) :
    bpiStep s = .ok (bpiAccess c (s.opened c)) := by
  rw [bpiStep_start h, bpiStart_ok hf]
  rfl

/-- A command with a fault faults. -/
theorem bpiStep_fault {e : Fault} (h : EngineAt c rest s.bpi) (hf : bpiStartFault c s = some e) : bpiStep s = .error e := by
  rw [bpiStep_start h, bpiStart_error hf]

theorem bpiStep_error_iff {e : Fault} (h : EngineAt c rest s.bpi) :
    bpiStep s = .error e ↔ bpiStartFault c s = some e := by
  rw [bpiStep_start h]
  unfold bpiStart
  cases bpiStartFault c s <;> simp

theorem bpiAccess_none (hburst : cmdBurst c = false) (hread : cmdRead c = false) (hwrite : cmdWrite c = false)
    (hwait : cmdWaitReady c = false) (t : State) : bpiAccess c t = bpiFinish c t := by
  simp [bpiAccess, hburst, hread, hwrite, hwait]

theorem bpiAccess_read (hburst : cmdBurst c = false) (hread : cmdRead c = true) (t : State) :
    bpiAccess c t = bpiFinish c (if cmdInc c then bpiReadInc t else bpiReadWord t) := by
  simp [bpiAccess, hburst, hread]

theorem bpiAccess_write (hburst : cmdBurst c = false) (hread : cmdRead c = false) (hwrite : cmdWrite c = true) (t : State) :
    bpiAccess c t = bpiFinish c (bpiWriteWord c t) := by
  simp [bpiAccess, hburst, hread, hwrite]

theorem bpiAccess_wait (hburst : cmdBurst c = false) (hread : cmdRead c = false) (hwrite : cmdWrite c = false)
    (hwait : cmdWaitReady c = true) (t : State) :
    bpiAccess c t = bpiStatusStep c { t with bpi := { t.bpi with waiting := true } } := by
  simp [bpiAccess, hburst, hread, hwrite, hwait]

theorem bpiAccess_burst (hburst : cmdBurst c = true) (t : State) :
    bpiAccess c t = bpiBurstStep c { t with bpi := { t.bpi with burstLeft := c.toNat % 2 ^ 16 + 1 } } := by
  simp [bpiAccess, hburst, cmdData_toNat]

theorem not_contradictory (h : ¬Refused s.cfg c) : ¬Contradictory c := fun hc => h (.inl hc)

/-! ## The faults of a command that is not refused -/

/-- A read or write without an address or a chip select (R225 to R229). -/
theorem startFault_unready (h : ¬Refused s.cfg c) (haccess : cmdRead c = true ∨ cmdWrite c = true)
    (hready : addrReady c s.bpi = false ∨ csReady c s.bpi = false) :
    bpiStartFault c s = some (.unwritten (accessRule c)) := by
  rw [bpiStartFault_of_not_refused h, if_pos]
  rcases haccess with ha | ha <;> rcases hready with hr | hr <;> simp [ha, hr]

/-- A command that has what its access needs, and is no unprimed burst, starts. -/
theorem startFault_none (h : ¬Refused s.cfg c)
    (haddr : cmdRead c = true ∨ cmdWrite c = true → addrReady c s.bpi = true ∧ csReady c s.bpi = true)
    (hcs : cmdWaitReady c = true → csReady c s.bpi = true) (hprimed : cmdBurst c = true → s.bpi.primed = 3) :
    bpiStartFault c s = none := by
  rw [bpiStartFault_of_not_refused h, if_neg, if_neg, if_neg]
  · intro hb
    simp only [Bool.and_eq_true, decide_eq_true_eq] at hb
    exact hb.2 (hprimed hb.1)
  · intro hw
    simp only [Bool.and_eq_true, Bool.not_eq_true'] at hw
    rw [hcs hw.1] at hw
    cases hw.2
  · intro ha
    simp only [Bool.and_eq_true, Bool.or_eq_true, Bool.not_eq_true'] at ha
    obtain ⟨h1, h2⟩ := haddr ha.1
    rw [h1, h2] at ha
    cases ha.2

/-- Settles O25: the engine's faults are those of `bpiStartFault`. -/
theorem engineRefusals : Obligations.EngineRefusals := by
  unfold Obligations.EngineRefusals
  intro cmd rest s h
  simp only [bpiStep_error_iff h, bpiStartFault_eq_bpiCmd]
  refine ⟨by simp, by simp, by simp, ⟨?_, ?_⟩⟩
  · rintro ⟨r, ⟨-, hc⟩ | ⟨-, -, ho⟩ | ⟨-, -, -, hw⟩⟩
    · exact .inl hc
    · exact .inr (.inl ho)
    · exact .inr (.inr hw)
  · intro href
    by_cases hc : Contradictory cmd
    · exact ⟨222, .inl ⟨rfl, hc⟩⟩
    · by_cases ho : OutsideBank s.cfg cmd
      · exact ⟨224, .inr (.inl ⟨rfl, hc, ho⟩)⟩
      · exact ⟨229, .inr (.inr ⟨rfl, hc, ho, (href.resolve_left hc).resolve_left ho⟩)⟩

/-- Settles O26: such a word is finished at once. -/
theorem engineSelectAndLoad : Obligations.EngineSelectAndLoad := by
  unfold Obligations.EngineSelectAndLoad
  intro cmd rest s h href hwait hburst hread hwrite
  have hfault : bpiStartFault cmd s = none := startFault_none href
    (by rintro (hr | hw); exacts [absurd (hread.symm.trans hr) Bool.false_ne_true, absurd (hwrite.symm.trans hw) Bool.false_ne_true])
    (fun hw => absurd (hwait.symm.trans hw) Bool.false_ne_true)
    (fun hb => absurd (hburst.symm.trans hb) Bool.false_ne_true)
  rw [bpiStep_access h hfault, bpiAccess_none hburst hread hwrite hwait, bpiFinish_eq, opened_eq]
  have hknown : (if cmdDeassertCs cmd then true else cmdAssertCs cmd || s.bpi.csKnown) =
      (s.bpi.csKnown || cmd.getLsbD 24 || cmd.getLsbD 25) := by
    unfold cmdDeassertCs cmdAssertCs
    cases cmd.getLsbD 24 <;> cases cmd.getLsbD 25 <;> simp
  simp only [hknown, h.head, List.tail_cons, Bool.or_comm (cmdLoadAddr cmd)]
  rfl

/-! ## Single reads and writes -/

theorem addressAt_of_not_load (h : cmdLoadAddr c = false) (u : BpiUnit) : addressAt c u = u.addr :=
  if_neg (by rw [show c.getLsbD 26 = false from h]; exact Bool.false_ne_true)

theorem addrReady_iff (c : RegVal) (u : BpiUnit) :
    addrReady c u = true ↔ u.addrKnown = true ∨ c.getLsbD 26 = true := by
  simp [addrReady, cmdLoadAddr, or_comm]

theorem csReady_iff (c : RegVal) (u : BpiUnit) : csReady c u = true ↔ u.csKnown = true ∨ c.getLsbD 24 = true := by
  simp [csReady, cmdAssertCs, or_comm]

theorem addrReady_eq_false_iff (c : RegVal) (u : BpiUnit) :
    addrReady c u = false ↔ u.addrKnown = false ∧ c.getLsbD 26 = false := by
  simp [addrReady, cmdLoadAddr, and_comm]

theorem csReady_eq_false_iff (c : RegVal) (u : BpiUnit) :
    csReady c u = false ↔ u.csKnown = false ∧ c.getLsbD 24 = false := by
  simp [csReady, cmdAssertCs, and_comm]

/-- The command finished on a machine whose select is known. -/
theorem bpiFinish_known (hq : t.bpi.cmdq = c :: rest) (hcs : t.bpi.csKnown = true) :
    bpiFinish c t = { t with
      bpi := { t.bpi with cmdq := rest, cs := if c.getLsbD 25 then false else t.bpi.cs, csKnown := true }
      history := t.history ++ [.bpiDone c] } := by
  rw [bpiFinish_eq, hq, hcs, ite_self]
  rfl

/-- The machine opened for a command whose address and select are there. -/
theorem opened_ready (haddr : addrReady c s.bpi = true) (hcs : csReady c s.bpi = true) :
    s.opened c = { s with bpi := { s.bpi with
      cs := selectedAt c s.bpi
      csKnown := true
      addr := addressAt c s.bpi
      addrKnown := true
      primed := if cmdLoadAddr c then 0 else s.bpi.primed } } := by
  have haddr' : (cmdLoadAddr c || s.bpi.addrKnown) = true := haddr
  have hcs' : (cmdAssertCs c || s.bpi.csKnown) = true := hcs
  rw [opened_eq, haddr', hcs']

/-- Settles O27: both kinds of read are one flash read at their address. -/
theorem engineReads : Obligations.EngineReads := by
  unfold Obligations.EngineReads
  intro cmd rest s h href hburst hread a q
  obtain ⟨hrw, -, hwait, hincload, -⟩ := admissible_bits (not_contradictory href)
  refine ⟨fun hmissing => ?unready, fun haddr hcs => ?reads⟩
  case unready =>
    rw [← addrReady_eq_false_iff, ← csReady_eq_false_iff] at hmissing
    have hrule : accessRule cmd = if cmd.getLsbD 31 then 227 else 225 := by
      simp [accessRule, show cmdBurst cmd = false from hburst, show cmdRead cmd = true from hread, cmdInc]
    exact hrule ▸ bpiStep_fault h (startFault_unready href (.inl hread) hmissing)
  case reads =>
    rw [← addrReady_iff] at haddr
    rw [← csReady_iff] at hcs
    have hfault : bpiStartFault cmd s = none := startFault_none href (fun _ => ⟨haddr, hcs⟩) (fun _ => hcs)
      (fun hb => absurd (hburst.symm.trans hb) Bool.false_ne_true)
    rw [bpiStep_access h hfault, bpiAccess_read hburst hread, bpiReadInc_eq, bpiReadWord_eq, opened_ready haddr hcs]
    cases hinc : cmdInc cmd with
    | true =>
      have hload : cmdLoadAddr cmd = false := hincload hinc
      have hbit : cmd.getLsbD 31 = true := hinc
      have ha : a = nextFlashAddr s.cfg s.bpi.addr := by simp only [a, hbit, if_true]; rfl
      rw [if_pos rfl, bpiFinish_known (c := cmd) (rest := rest) (by exact h.head) rfl]
      simp only [addressAt_of_not_load hload, hload, hbit, q, ha]
      rfl
    | false =>
      have hbit : cmd.getLsbD 31 = false := hinc
      have ha : a = addressAt cmd s.bpi := by simp only [a, hbit]; rfl
      rw [if_neg Bool.false_ne_true, bpiFinish_known (c := cmd) (rest := rest) (by exact h.head) rfl]
      simp only [hbit, q, ha]
      rfl

/-- Settles O30: a write is recorded where the flash is selected. -/
theorem engineWrites : Obligations.EngineWrites := by
  unfold Obligations.EngineWrites
  intro cmd rest s h href hwrite a
  obtain ⟨hrw, hburstbits, hwait, -, hwritebits⟩ := admissible_bits (not_contradictory href)
  obtain ⟨hload, hburst⟩ := hwritebits hwrite
  have hread : cmdRead cmd = false := by
    cases hr : cmdRead cmd with
    | false => rfl
    | true => exact absurd ((hrw hr).symm.trans hwrite) Bool.false_ne_true
  refine ⟨fun hmissing => ?unready, fun haddr hcs => ?writes⟩
  case unready =>
    have hrule : accessRule cmd = 229 := by simp [accessRule, hburst, hread, show cmdWrite cmd = true from hwrite]
    refine hrule ▸ bpiStep_fault h (startFault_unready href (.inr hwrite) ?_)
    rw [addrReady_eq_false_iff, csReady_eq_false_iff]
    exact hmissing.imp_left fun hk => ⟨hk, hload⟩
  case writes =>
    have haddr' : addrReady cmd s.bpi = true := (addrReady_iff cmd s.bpi).2 (.inl haddr)
    rw [← csReady_iff] at hcs
    have hfault : bpiStartFault cmd s = none := startFault_none href (fun _ => ⟨haddr', hcs⟩) (fun _ => hcs)
      (fun hb => absurd (hburst.symm.trans hb) Bool.false_ne_true)
    have hdata : BitVec.ofNat 16 (cmd.toNat % 2 ^ 16) = cmdData cmd := by
      rw [← cmdData_toNat, BitVec.ofNat_toNat, BitVec.setWidth_eq]
    rw [bpiStep_access h hfault, bpiAccess_write hburst hread hwrite, bpiWriteWord_eq, opened_ready haddr' hcs,
      bpiFinish_known (c := cmd) (rest := rest) (by exact h.head) rfl, hdata]
    simp only [addressAt_of_not_load hload, haddr]
    rfl

end Sys2Proof.Machine
end

section
/-! Proofs about the commands of the BPI engine that take several steps (43_bpi.md): bursts (R228) and status waits (R226). -/

namespace Sys2Proof.Machine

variable {c : RegVal} {rest : List RegVal} {s t : State}

/-! ## Bursts -/

/-- One step of a burst that has `m` words left after it. -/
theorem bpiBurstStep_pushes {m : Nat} (hq : t.bpi.cmdq = c :: rest) (hcs : t.bpi.csKnown = true)
    (hm : t.bpi.burstLeft = m + 1) :
    bpiBurstStep c t =
      let a := nextFlashAddr t.cfg t.bpi.addr
      let q := flashQuery t.bpi.cs t.cpld.bankEff a
      { t.answered q with
        bpi := { t.bpi with
          cmdq := if m = 0 then rest else t.bpi.cmdq
          rdq := t.bpi.rdq ++ [flashAnswer t.cfg (t.nextAnswer q)]
          addr := a
          cs := if m = 0 ∧ c.getLsbD 25 = true then false else t.bpi.cs
          csKnown := true
          burstLeft := m }
        history := (t.answered q).history ++ (if m = 0 then [.bpiDone c] else []) } := by
  rw [bpiBurstStep_eq c hm]
  dsimp only
  cases m with
  | zero =>
    rw [if_pos rfl, bpiFinish_known (c := c) (rest := rest) (by exact hq) (by exact hcs)]
    simp only [State.fetched, if_true, true_and]
  | succ m =>
    rw [if_neg (Nat.succ_ne_zero m)]
    simp only [State.fetched, Nat.succ_ne_zero, if_false, false_and, List.append_nil, hcs]

theorem bpiStep_burst {m : Nat} (hq : s.bpi.cmdq = c :: rest) (hw : s.bpi.waiting = false) (hm : s.bpi.burstLeft = m + 1) :
    bpiStep s = .ok (bpiBurstStep c s) := by
  simp [bpiStep, hq, hw, hm]

/-- Settles O28: the step that starts a burst and a later one are one `bpiBurstStep`. -/
theorem engineBurstSteps : Obligations.EngineBurstSteps := by
  unfold Obligations.EngineBurstSteps
  intro cmd rest s hburst a query pushed
  refine ⟨fun h href => ?start, fun m hq hw hcs hm => ?later⟩
  case start =>
    obtain ⟨hread, -, hload, -⟩ := (admissible_bits (not_contradictory href)).2.1 hburst
    have hrule : accessRule cmd = 228 := by simp [accessRule, show cmdBurst cmd = true from hburst]
    have hready : s.bpi.addrKnown = true → addrReady cmd s.bpi = true := fun hk => (addrReady_iff cmd s.bpi).2 (.inl hk)
    simp only [← csReady_iff]
    refine ⟨fun hmissing => ?unready, fun haddr hcs hprimed => ?unprimed, fun haddr hcs hprimed => ?primed⟩
    case unready =>
      refine hrule ▸ bpiStep_fault h (startFault_unready href (.inl hread) ?_)
      rw [addrReady_eq_false_iff, csReady_eq_false_iff]
      exact hmissing.imp_left fun hk => ⟨hk, hload⟩
    case unprimed =>
      have hwait : cmdWaitReady cmd = false := by
        cases hw : cmdWaitReady cmd with
        | false => rfl
        | true =>
          obtain ⟨hb, -, -⟩ := (admissible_bits (not_contradictory href)).2.2.1 hw
          exact absurd (hb.symm.trans hburst) Bool.false_ne_true
      refine bpiStep_fault h ?_
      rw [bpiStartFault_of_not_refused href]
      simp [hready haddr, hcs, hwait, show cmdBurst cmd = true from hburst, hprimed]
    case primed =>
      have hfault : bpiStartFault cmd s = none :=
        startFault_none href (fun _ => ⟨hready haddr, hcs⟩) (fun _ => hcs) (fun _ => hprimed)
      rw [bpiStep_access h hfault, bpiAccess_burst hburst, opened_ready (hready haddr) hcs,
        bpiBurstStep_pushes (c := cmd) (rest := rest) (by exact h.head) rfl rfl]
      simp only [addressAt_of_not_load hload, hload, pushed, query, a, haddr]
      rfl
  case later => rw [bpiStep_burst hq hw hm, bpiBurstStep_pushes hq hcs hm]; rfl

/-! ## Status waits -/

/-- One step of a status wait. -/
theorem bpiStatusStep_pushes (hq : t.bpi.cmdq = c :: rest) (hcs : t.bpi.csKnown = true) (hw : t.bpi.waiting = true) :
    bpiStatusStep c t =
      let w := statusWord t t.bpi.cs
      let q := statusQuery t.bpi.cs t.cpld.bankEff
      { t.answered q with
        bpi := { t.bpi with
          cmdq := if w.getLsbD 7 then rest else t.bpi.cmdq
          rdq := t.bpi.rdq ++ [w]
          cs := if w.getLsbD 7 = true ∧ c.getLsbD 25 = true then false else t.bpi.cs
          csKnown := true
          waiting := !w.getLsbD 7 }
        history := (t.answered q).history ++ (if w.getLsbD 7 then [.bpiDone c] else []) } := by
  rw [bpiStatusStep_eq]
  dsimp only
  cases hbit : (statusWord t t.bpi.cs).getLsbD 7 with
  | true =>
    rw [if_pos rfl, bpiFinish_known (c := c) (rest := rest) (by exact hq) (by exact hcs)]
    simp only [if_true, true_and, Bool.not_true]
  | false =>
    rw [if_neg Bool.false_ne_true]
    simp only [Bool.false_eq_true, if_false, false_and, List.append_nil, hcs, hw, Bool.not_false]

theorem bpiStep_wait (hq : s.bpi.cmdq = c :: rest) (hw : s.bpi.waiting = true) : bpiStep s = .ok (bpiStatusStep c s) := by
  simp [bpiStep, hq, hw]

/-- Settles O29: the step that starts a wait and a later one are one `bpiStatusStep`. -/
theorem engineStatusWait : Obligations.EngineStatusWait := by
  unfold Obligations.EngineStatusWait
  intro cmd rest s hwait query word pushed
  refine ⟨fun h href => ?start, fun hq hw hcs => ?later⟩
  case start =>
    obtain ⟨hburst, hread, hwrite⟩ := (admissible_bits (not_contradictory href)).2.2.1 hwait
    rw [← csReady_iff]
    refine ⟨fun hk hb => ?unready, fun hcs => ?waits⟩
    case unready =>
      have hcs : csReady cmd s.bpi = false := (csReady_eq_false_iff cmd s.bpi).2 ⟨hk, hb⟩
      have hrule : accessRule cmd = 226 := by simp [accessRule, hburst, hread, hwrite]
      refine hrule ▸ bpiStep_fault h ?_
      rw [bpiStartFault_of_not_refused href]
      simp [hread, hwrite, hcs, show cmdWaitReady cmd = true from hwait]
    case waits =>
      have hfault : bpiStartFault cmd s = none := startFault_none href
        (by rintro (hr | hw); exacts [absurd (hread.symm.trans hr) Bool.false_ne_true, absurd (hwrite.symm.trans hw) Bool.false_ne_true])
        (fun _ => hcs) (fun hb => absurd (hburst.symm.trans hb) Bool.false_ne_true)
      have hknown : (cmdAssertCs cmd || s.bpi.csKnown) = true := hcs
      rw [bpiStep_access h hfault, bpiAccess_wait hburst hread hwrite hwait, opened_eq, hknown,
        bpiStatusStep_pushes (c := cmd) (rest := rest) (by exact h.head) rfl rfl]
      simp only [Bool.or_comm (cmdLoadAddr cmd)]
      rfl
  case later => rw [bpiStep_wait hq hw, bpiStatusStep_pushes hq hcs hw]; rfl

end Sys2Proof.Machine
end

section
/-! The read commands of R234 and R235 read exactly their words: a run of the BPI engine, word by word. -/

namespace Sys2Proof.Machine

variable {s u t : State} {a : BitVec 24} {k l m left : Nat} {q q' rest : List RegVal}

/-! ## The command words (R105, R234, R235) -/

theorem loadAddrCmd_getLsbD (a : BitVec 24) {j : Nat} (hj : 24 ≤ j) :
    (loadAddrCmd a).getLsbD j = (0x04000000#32).getLsbD j := by
  simp [loadAddrCmd, BitVec.getLsbD_of_ge a j hj]

/-- Only the `LOAD_ADDR` bit of the word is set above the address. -/
theorem loadAddrCmd_bits (a : BitVec 24) :
    (loadAddrCmd a).getLsbD 24 = false ∧ (loadAddrCmd a).getLsbD 25 = false ∧ (loadAddrCmd a).getLsbD 26 = true ∧
      (loadAddrCmd a).getLsbD 27 = false ∧ (loadAddrCmd a).getLsbD 28 = false ∧ (loadAddrCmd a).getLsbD 29 = false ∧
      (loadAddrCmd a).getLsbD 30 = false ∧ (loadAddrCmd a).getLsbD 31 = false := by
  refine ⟨?_, ?_, ?_, ?_, ?_, ?_, ?_, ?_⟩ <;> rw [loadAddrCmd_getLsbD a (by omega)] <;> rfl

theorem loadAddrCmd_toNat (a : BitVec 24) : (loadAddrCmd a).toNat = 2 ^ 24 * 4 + a.toNat := by
  have ha : a.toNat < 2 ^ 24 := a.isLt
  rw [loadAddrCmd, BitVec.toNat_or, BitVec.toNat_setWidth_of_le (by omega), Nat.two_pow_add_eq_or_of_lt ha]
  rfl

theorem cmdP_loadAddrCmd (a : BitVec 24) : cmdP (loadAddrCmd a) = a := by
  have ha : a.toNat < 2 ^ 24 := a.isLt
  apply BitVec.eq_of_toNat_eq
  rw [cmdP_toNat, loadAddrCmd_toNat]
  omega

/-- The burst command of `m + 1` words. -/
def burstCmd (m : Nat) : RegVal := 0xB0000000#32 ||| BitVec.ofNat 32 m

theorem burstCmd_getLsbD (hm : m < 65536) {j : Nat} (hj : 16 ≤ j) :
    (burstCmd m).getLsbD j = (0xB0000000#32).getLsbD j := by
  have hlow : m.testBit j = false := Nat.testBit_lt_two_pow (hm.trans_le (Nat.pow_le_pow_right (n := 2) (by omega) hj))
  have hcount : (BitVec.ofNat 32 m).getLsbD j = false := by rw [BitVec.getLsbD_ofNat, hlow, Bool.and_false]
  rw [burstCmd, BitVec.getLsbD_or, hcount, Bool.or_false]

/-- The `BURST`, `READ` and `INC` bits of the word are set. -/
theorem burstCmd_bits (hm : m < 65536) :
    (burstCmd m).getLsbD 24 = false ∧ (burstCmd m).getLsbD 25 = false ∧ (burstCmd m).getLsbD 26 = false ∧
      (burstCmd m).getLsbD 27 = false ∧ (burstCmd m).getLsbD 28 = true ∧ (burstCmd m).getLsbD 29 = true ∧
      (burstCmd m).getLsbD 30 = false ∧ (burstCmd m).getLsbD 31 = true := by
  refine ⟨?_, ?_, ?_, ?_, ?_, ?_, ?_, ?_⟩ <;> rw [burstCmd_getLsbD hm (by omega)] <;> rfl

theorem burstCmd_toNat (hm : m < 65536) : (burstCmd m).toNat = 2 ^ 16 * 45056 + m := by
  rw [burstCmd, BitVec.toNat_or, BitVec.toNat_ofNat, BitVec.toNat_ofNat, Nat.mod_eq_of_lt (show m < 2 ^ 32 by omega),
    Nat.two_pow_add_eq_or_of_lt hm]

theorem burstCmd_count (hm : m < 65536) : (burstCmd m).toNat % 2 ^ 16 = m := by
  rw [burstCmd_toNat hm]
  omega

theorem not_refused_loadAddrCmd {g : Config} (ha : a &&& ~~~g.bpiAddressMask = 0) : ¬Refused g (loadAddrCmd a) := by
  obtain ⟨b24, b25, b26, b27, b28, b29, b30, b31⟩ := loadAddrCmd_bits a
  rintro (hc | ⟨-, hout⟩ | ⟨hw, -⟩)
  · simp [-BitVec.getLsbD_eq_getElem, Contradictory, b24, b26, b27, b28, b29, b30, b31] at hc
  · rw [cmdP_loadAddrCmd] at hout
    exact hout ha
  · exact absurd (b30.symm.trans hw) Bool.false_ne_true

theorem not_refused_read (g : Config) : ¬Refused g 0x20000000#32 := by
  rintro (hc | ⟨hl, -⟩ | ⟨hw, -⟩)
  · simp [Contradictory] at hc
  · simp at hl
  · simp at hw

theorem not_refused_readInc (g : Config) : ¬Refused g 0xA0000000#32 := by
  rintro (hc | ⟨hl, -⟩ | ⟨hw, -⟩)
  · simp [Contradictory] at hc
  · simp at hl
  · simp at hw

theorem not_refused_burst (g : Config) (hm : m < 65536) : ¬Refused g (burstCmd m) := by
  obtain ⟨b24, b25, b26, b27, b28, b29, b30, b31⟩ := burstCmd_bits hm
  rintro (hc | ⟨hl, -⟩ | ⟨hw, -⟩)
  · have hlow : (burstCmd m).toNat % 2 ^ 24 < 65536 := by rw [burstCmd_toNat hm]; omega
    simp [-BitVec.getLsbD_eq_getElem, Contradictory, b24, b26, b27, b28, b29, b30, b31] at hc
    omega
  · exact absurd (b26.symm.trans hl) Bool.false_ne_true
  · exact absurd (b30.symm.trans hw) Bool.false_ne_true

/-! ## A read in progress -/

/-- The event is an answer of the environment. -/
def Event.isAnswer : Event → Bool
  | .answer _ _ => true
  | _ => false

/-- The answer to a question after `k` more answers. -/
def answerAt (s : State) (o : Oracle) (k : Nat) : RegVal :=
  ({ s with env := ⟨s.env.answers.drop k, s.env.drawn + k⟩ } : State).nextAnswer o

theorem answerAt_listed (s : State) (o : Oracle) (hk : k < s.env.answers.length) :
    s.env.answers[k]? = some (answerAt s o k) := by
  rw [List.getElem?_eq_getElem hk]
  simp only [answerAt, State.nextAnswer, List.drop_eq_getElem_cons hk]

/-- The question for word `k` of a read from `a` on. -/
def readQuestion (s : State) (a : BitVec 24) (k : Nat) : Oracle := .flashWord s.cpld.bankEff ((nextFlashAddr s.cfg)^[k] a)

/-- The answer for word `k` of a read from `a` on. -/
def readAnswer (s : State) (a : BitVec 24) (k : Nat) : RegVal := answerAt s (readQuestion s a k) k

/-- The unit after `k` words of a read that began in `s`, with the commands `q` still to run and `left` words of a burst to push. -/
def readUnit (s : State) (a : BitVec 24) (k left : Nat) (q : List RegVal) : BpiUnit :=
  { s.bpi with
    cmdq := q
    rdq := s.bpi.rdq ++ (List.range k).map (fun j => flashAnswer s.cfg (readAnswer s a j))
    addr := (nextFlashAddr s.cfg)^[k - 1] a
    addrKnown := true
    primed := min k 3
    burstLeft := left }

/-- The machine `u` after `k` words of a read from `a` on that began in `s`. -/
structure Reading (s : State) (a : BitVec 24) (k left : Nat) (q : List RegVal) (u : State) : Prop where
  cfg : u.cfg = s.cfg
  cpld : u.cpld = s.cpld
  env : u.env = ⟨s.env.answers.drop k, s.env.drawn + k⟩
  bpi : u.bpi = readUnit s a k left q
  answers : u.history.filter Event.isAnswer =
    s.history.filter Event.isAnswer ++ (List.range k).map (fun j => .answer (readQuestion s a j) (readAnswer s a j))

theorem Reading.nextAnswer (h : Reading s a k left q u) (o : Oracle) : u.nextAnswer o = answerAt s o k := by
  simp only [State.nextAnswer, answerAt, h.env]

/-- One more word: its question was asked, and its word pushed. -/
theorem Reading.push {evs : List Event} {left' : Nat} (h : Reading s a k left q u) (hcfg : t.cfg = u.cfg) (hcpld : t.cpld = u.cpld)
    (henv : t.env = (u.answered (readQuestion s a k)).env)
    (hbpi : t.bpi = { s.bpi with
      cmdq := q'
      rdq := u.bpi.rdq ++ [flashAnswer u.cfg (u.nextAnswer (readQuestion s a k))]
      addr := (nextFlashAddr s.cfg)^[k] a
      addrKnown := true
      primed := min (k + 1) 3
      burstLeft := left' })
    (hhistory : t.history = (u.answered (readQuestion s a k)).history ++ evs) (hevs : evs.filter Event.isAnswer = []) :
    Reading s a (k + 1) left' q' t where
  cfg := hcfg.trans h.cfg
  cpld := hcpld.trans h.cpld
  env := by rw [henv, State.answered_env, h.env, List.tail_drop, Nat.add_assoc]
  bpi := by
    rw [hbpi, h.nextAnswer, h.cfg, h.bpi, readUnit, readUnit, List.range_succ, List.map_append, List.append_assoc]
    rfl
  answers := by
    rw [hhistory, State.answered_history, List.filter_append, List.filter_append, h.answers, hevs, h.nextAnswer,
      List.range_succ, List.map_append, List.append_nil, List.append_assoc]
    rfl

/-! ## One step for each word -/

section Steps

variable (hcs : s.bpi.cs = true) (hcsk : s.bpi.csKnown = true) (hwait : s.bpi.waiting = false)
include hcs hcsk hwait

/-- Loading the address begins the read. -/
theorem reading_load (hleft : s.bpi.burstLeft = 0) (ha : a &&& ~~~s.cfg.bpiAddressMask = 0)
    (hq : s.bpi.cmdq = loadAddrCmd a :: q) : ∃ t, bpiStep s = .ok t ∧ Reading s a 0 0 q t := by
  obtain ⟨b24, b25, b26, b27, b28, b29, b30, -⟩ := loadAddrCmd_bits a
  have hstep := engineSelectAndLoad (loadAddrCmd a) q s ⟨hq, hwait, hleft⟩ (not_refused_loadAddrCmd ha) b27 b28 b29 b30
  refine ⟨_, hstep, rfl, rfl, rfl, ?_, ?_⟩
  · simp only [selectedAt, addressAt, b24, b25, b26, cmdP_loadAddrCmd, hcs, hcsk]
    simp [readUnit, hleft, hcs, hcsk]
  · simp [Event.isAnswer]

/-- The first word is read at the address loaded. -/
theorem reading_first (h : Reading s a 0 0 (0x20000000#32 :: q) u) : ∃ t, bpiStep u = .ok t ∧ Reading s a 1 0 q t := by
  have hat : EngineAt 0x20000000#32 q u.bpi := by rw [h.bpi]; exact ⟨rfl, hwait, rfl⟩
  obtain ⟨-, hstep⟩ := engineReads _ q u hat (not_refused_read u.cfg) (by simp) (by simp)
  replace hstep := hstep (.inl (by rw [h.bpi]; rfl)) (.inl (by rw [h.bpi]; exact hcsk))
  have hquestion : flashQuery (selectedAt 0x20000000#32 u.bpi) u.cpld.bankEff (addressAt 0x20000000#32 u.bpi) =
      readQuestion s a 0 := by
    simp [flashQuery, selectedAt, addressAt, readQuestion, h.bpi, h.cpld, readUnit, hcs]
  rw [if_neg (by decide), hquestion] at hstep
  refine ⟨_, hstep, h.push (evs := [.bpiDone 0x20000000#32]) rfl rfl rfl ?_ rfl rfl⟩
  simp [h.bpi, readUnit, selectedAt, addressAt, hcs, hcsk]

omit hcs hcsk hwait in
theorem Reading.next_addr (hk : 1 ≤ k) (h : Reading s a k left q u) :
    (u.bpi.addr + 1) &&& u.cfg.bpiAddressMask = (nextFlashAddr s.cfg)^[k] a := by
  obtain ⟨k, rfl⟩ := Nat.exists_eq_add_of_le' hk
  rw [h.bpi, h.cfg, Function.iterate_succ_apply']
  rfl

/-- A word read with increment. -/
theorem reading_inc (hk : 1 ≤ k) (h : Reading s a k 0 (0xA0000000#32 :: q) u) :
    ∃ t, bpiStep u = .ok t ∧ Reading s a (k + 1) 0 q t := by
  have hat : EngineAt 0xA0000000#32 q u.bpi := by rw [h.bpi]; exact ⟨rfl, hwait, rfl⟩
  obtain ⟨-, hstep⟩ := engineReads _ q u hat (not_refused_readInc u.cfg) (by simp) (by simp)
  replace hstep := hstep (.inl (by rw [h.bpi]; rfl)) (.inl (by rw [h.bpi]; exact hcsk))
  have hquestion : flashQuery (selectedAt 0xA0000000#32 u.bpi) u.cpld.bankEff ((nextFlashAddr s.cfg)^[k] a) =
      readQuestion s a k := by
    simp [flashQuery, selectedAt, readQuestion, h.bpi, h.cpld, readUnit, hcs]
  have hprimed : (if min k 3 = 1 ∨ min k 3 = 2 then min k 3 + 1 else min k 3) = min (k + 1) 3 := by
    split_ifs <;> omega
  rw [if_pos (by decide), h.next_addr hk, hquestion] at hstep
  refine ⟨_, hstep, h.push (evs := [.bpiDone 0xA0000000#32]) rfl rfl rfl ?_ rfl rfl⟩
  simp [h.bpi, readUnit, selectedAt, hcs, hcsk, hprimed]

omit hcs hcsk hwait in
theorem Reading.question (h : Reading s a k left q u) {cs : Bool} (hsel : cs = true) :
    flashQuery cs u.cpld.bankEff ((nextFlashAddr s.cfg)^[k] a) = readQuestion s a k := by
  rw [hsel, h.cpld]
  rfl

/-- A later word of a burst. -/
theorem reading_burst_later (hk : 3 ≤ k) (hl : l < 65536) (h : Reading s a k (m + 1) (burstCmd l :: rest) u) :
    ∃ t, bpiStep u = .ok t ∧ Reading s a (k + 1) m (if m = 0 then rest else burstCmd l :: rest) t := by
  obtain ⟨-, b25, -, -, b28, -⟩ := burstCmd_bits hl
  have hselected : u.bpi.cs = true := by rw [h.bpi]; exact hcs
  obtain ⟨-, hstep⟩ := engineBurstSteps _ rest u b28
  replace hstep := hstep m (by rw [h.bpi]; rfl) (by rw [h.bpi]; exact hwait) (by rw [h.bpi]; exact hcsk) (by rw [h.bpi]; rfl)
  dsimp only at hstep
  rw [h.next_addr (by omega), h.question hselected, b25] at hstep
  have hprimed : min k 3 = min (k + 1) 3 := by omega
  refine ⟨_, hstep, h.push (evs := if m = 0 then [.bpiDone (burstCmd l)] else []) rfl rfl rfl ?_ rfl (by split <;> rfl)⟩
  simp [h.bpi, readUnit, hcs, hcsk, hprimed]

/-- The first word of a burst. -/
theorem reading_burst_first (hk : 3 ≤ k) (hm : m < 65536) (h : Reading s a k 0 (burstCmd m :: rest) u) :
    ∃ t, bpiStep u = .ok t ∧ Reading s a (k + 1) m (if m = 0 then rest else burstCmd m :: rest) t := by
  obtain ⟨b24, b25, -, -, b28, -⟩ := burstCmd_bits hm
  have hat : EngineAt (burstCmd m) rest u.bpi := by rw [h.bpi]; exact ⟨rfl, hwait, rfl⟩
  have hselected : selectedAt (burstCmd m) u.bpi = true := by rw [selectedAt, h.bpi, b24]; exact hcs
  have hprimed : min k 3 = 3 := by omega
  obtain ⟨hstart, -⟩ := engineBurstSteps _ rest u b28
  obtain ⟨-, -, hstep⟩ := hstart hat (not_refused_burst u.cfg hm)
  replace hstep := hstep (by rw [h.bpi]; rfl) (.inl (by rw [h.bpi]; exact hcsk)) (by rw [h.bpi]; exact hprimed)
  dsimp only at hstep
  rw [h.next_addr (by omega), h.question hselected, b25, burstCmd_count hm, hselected] at hstep
  have hprimed' : min (k + 1) 3 = min k 3 := by omega
  refine ⟨_, hstep, h.push (evs := if m = 0 then [.bpiDone (burstCmd m)] else []) rfl rfl rfl ?_ rfl (by split <;> rfl)⟩
  simp [h.bpi, readUnit, hcs, hcsk, hprimed']

/-! ## The whole read -/

/-- The words still to run after `k` words of a read of `l` words, from the second word on (R234, R235). -/
def incQueue (l k : Nat) : List RegVal :=
  if l < 5 then List.replicate (l - k) 0xA0000000#32
  else if k < l then List.replicate (3 - k) 0xA0000000#32 ++ [burstCmd (l - 4)] else []

/-- The words still to run after `k` words of a read of `l` words. -/
def readQueue (l k : Nat) : List RegVal := if k = 0 then 0x20000000#32 :: incQueue l 1 else incQueue l k

/-- The words that the running burst has left after `k` words of a read of `l` words. -/
def readLeft (l k : Nat) : Nat := if 5 ≤ l ∧ 3 < k then l - k else 0

omit hcs hcsk hwait in
theorem readCommands_eq {g : Config} (hl : 1 ≤ l) (hread : g.bpiReadCommand = 0x20000000#32)
    (hinc : g.bpiReadIncCommand = 0xA0000000#32) (hburst : g.bpiReadBurstIncCommand = 0xB0000000#32) :
    readCommands g l = readQueue l 0 := by
  rw [readCommands, hread, hinc, hburst, readQueue, if_pos rfl, incQueue]
  congr 1
  by_cases hsmall : l < 5
  · rw [if_pos hsmall, if_pos hsmall]
    interval_cases l <;> rfl
  · rw [if_neg hsmall, if_neg hsmall, if_pos (by omega), if_pos (by omega)]
    rfl

omit hcs hcsk hwait in
theorem incQueue_inc (hk : 1 ≤ k) (hkl : k < l) (h : l < 5 ∨ k < 3) : incQueue l k = 0xA0000000#32 :: incQueue l (k + 1) := by
  unfold incQueue
  by_cases hsmall : l < 5
  · rw [if_pos hsmall, if_pos hsmall, ← List.replicate_succ]
    congr 1
    omega
  · have hthree : 3 - k = (3 - (k + 1)) + 1 := by omega
    rw [if_neg hsmall, if_neg hsmall, if_pos hkl, if_pos (by omega), hthree, List.replicate_succ, List.cons_append]

omit hcs hcsk hwait in
theorem incQueue_burst (hl : 5 ≤ l) (hk : 3 ≤ k) : incQueue l k = if k < l then [burstCmd (l - 4)] else [] := by
  rw [incQueue, if_neg (by omega), Nat.sub_eq_zero_of_le hk]
  rfl

/-- The next word of a read. -/
theorem reading_next (hl : l < 65540) (hkl : k < l) (h : Reading s a k (readLeft l k) (readQueue l k ++ rest) u) :
    ∃ t, bpiStep u = .ok t ∧ Reading s a (k + 1) (readLeft l (k + 1)) (readQueue l (k + 1) ++ rest) t := by
  have hqueue : readQueue l (k + 1) = incQueue l (k + 1) := if_neg (Nat.succ_ne_zero k)
  rw [hqueue]
  rcases Nat.eq_zero_or_pos k with rfl | hk
  · have hleft : readLeft l 0 = 0 ∧ readLeft l 1 = 0 := by simp [readLeft]
    rw [hleft.1, readQueue, if_pos rfl] at h
    rw [hleft.2]
    exact reading_first hcs hcsk hwait h
  rw [readQueue, if_neg (Nat.pos_iff_ne_zero.1 hk)] at h
  by_cases hinc : l < 5 ∨ k < 3
  · rw [incQueue_inc hk hkl hinc, readLeft, if_neg (by omega)] at h
    rw [readLeft, if_neg (by omega)]
    exact reading_inc hcs hcsk hwait hk h
  obtain ⟨hlong, hthree⟩ : 5 ≤ l ∧ 3 ≤ k := by omega
  rw [incQueue_burst hlong hthree, if_pos hkl] at h
  rw [incQueue_burst hlong (by omega), readLeft, if_pos (by omega)]
  have htail : (if l - (k + 1) = 0 then rest else burstCmd (l - 4) :: rest) =
      (if k + 1 < l then [burstCmd (l - 4)] else []) ++ rest := by
    by_cases hlast : k + 1 < l
    · rw [if_neg (by omega), if_pos hlast]
      rfl
    · rw [if_pos (by omega), if_neg hlast]
      rfl
  rw [← htail]
  rcases Nat.eq_or_lt_of_le hthree with rfl | hlater
  · rw [readLeft, if_neg (by omega)] at h
    exact reading_burst_first hcs hcsk hwait (le_refl 3) (by omega) h
  · have hleft : readLeft l k = l - (k + 1) + 1 := by rw [readLeft, if_pos ⟨hlong, hlater⟩]; omega
    rw [hleft] at h
    exact reading_burst_later hcs hcsk hwait hthree (by omega) h

omit hcs hcsk hwait in
theorem engineRun_snoc {n : Nat} (h : engineRun n s = .ok u) (hstep : bpiStep u = .ok t) : engineRun (n + 1) s = .ok t := by
  induction n generalizing s with
  | zero =>
    cases h
    simp only [engineRun, hstep]
  | succ n ih =>
    rw [engineRun] at h ⊢
    cases hs : bpiStep s with
    | error e => rw [hs] at h; cases h
    | ok r => rw [hs] at h; exact ih h

/-- After `k + 1` steps the engine has read `k` words. -/
theorem reading_run (hleft : s.bpi.burstLeft = 0) (ha : a &&& ~~~s.cfg.bpiAddressMask = 0) (hl : l < 65540)
    (hq : s.bpi.cmdq = loadAddrCmd a :: (readQueue l 0 ++ rest)) (hkl : k ≤ l) :
    ∃ u, engineRun (k + 1) s = .ok u ∧ Reading s a k (readLeft l k) (readQueue l k ++ rest) u := by
  induction k with
  | zero =>
    obtain ⟨t, hstep, hreading⟩ := reading_load hcs hcsk hwait hleft ha hq
    exact ⟨t, engineRun_snoc rfl hstep, by rw [readLeft, if_neg (by omega)]; exact hreading⟩
  | succ k ih =>
    obtain ⟨u, hrun, hreading⟩ := ih (by omega)
    obtain ⟨t, hstep, hnext⟩ := reading_next hcs hcsk hwait hl hkl hreading
    exact ⟨t, engineRun_snoc hrun hstep, hnext⟩

end Steps

theorem readQueue_ne_nil (hkl : k < l) : readQueue l k ≠ [] := by
  unfold readQueue
  split_ifs
  · exact List.cons_ne_nil _ _
  · unfold incQueue
    split_ifs
    · exact List.ne_nil_of_length_pos (by rw [List.length_replicate]; omega)
    · exact List.append_ne_nil_of_right_ne_nil _ (List.cons_ne_nil _ _)

/-- The engine is enabled while words are left and the read FIFO has room for the next one. -/
theorem Reading.enabled (h : Reading s a k left q u) (hq : q ≠ []) (hroom : s.bpi.rdq.length + k < s.cfg.bpiReadFifoDepth) :
    enabled .bpi u = true := by
  rw [enabled_bpi_iff, h.bpi, h.cfg]
  refine ⟨hq, fun _ => ?_⟩
  rw [readUnit, List.length_append, List.length_map, List.length_range]
  exact hroom

/-- Settles O32: `reading_run` at every number of words. -/
theorem readCommandsReadAllWords : Obligations.ReadCommandsReadAllWords := by
  unfold Obligations.ReadCommandsReadAllWords
  intro l a rest s hl hlt hread hinc hburst ha hcsk hcs hwait hleft hq
  rw [readCommands_eq hl hread hinc hburst] at hq
  have hrun := fun k hk => reading_run (k := k) hcs hcsk hwait hleft ha hlt hq hk
  refine ⟨fun hfits k hk => ?enabledAlways, ?readsAll⟩
  case enabledAlways =>
    cases k with
    | zero =>
      refine ⟨s, rfl, enabled_bpi_iff.2 ⟨by rw [hq]; exact List.cons_ne_nil _ _, fun _ => by omega⟩⟩
    | succ k =>
      obtain ⟨u, hu, hreading⟩ := hrun k (by omega)
      exact ⟨u, hu, hreading.enabled (List.append_ne_nil_of_left_ne_nil (readQueue_ne_nil (by omega)) _) (by omega)⟩
  case readsAll =>
    obtain ⟨t, ht, hreading⟩ := hrun l (le_refl l)
    refine ⟨t, readAnswer s a, ht, ?_, hreading.answers, fun k hk _ => answerAt_listed s _ hk⟩
    have hdone : readQueue l l = [] := by
      rw [readQueue, if_neg (by omega), incQueue]
      simp
    have hburstDone : readLeft l l = s.bpi.burstLeft := by
      rw [hleft, readLeft, Nat.sub_self, ite_self]
    rw [hreading.bpi, hdone, readUnit, hburstDone]
    rfl

end Sys2Proof.Machine
end

section
/-! Steps of a running driver call (48_host.md R409), one lemma for each kind of entry on top of its control stack, and the call of
`set_state` of the JTAG controller (46_jtag.md R347, R348). -/

namespace Sys2Proof.Machine

variable {c : Config} {ms : List Micro} {s t u : State} {i : Instr} {n : Nat}

/-! ## One entry of the control stack -/

/-- A driver call that has not failed, with `ms` on its control stack. -/
structure CallAt (c : Config) (ms : List Micro) (t : State) : Prop where
  cfg : t.cfg = c
  stack : t.host.drv.stack = ms
  status : t.host.drv.status = .ok

theorem CallAt.pop {m : Micro} (h : CallAt c (m :: ms) t) : CallAt c ms t.pop where
  cfg := h.cfg
  stack := by rw [pop_eq h.stack]; rfl
  status := h.status

theorem CallAt.push {ms' : List Micro} (h : CallAt c ms t) : CallAt c (ms' ++ ms) (t.push ms') where
  cfg := h.cfg
  stack := congrArg (ms' ++ ·) h.stack
  status := h.status

/-- A call goes on after anything that leaves the parameters and the host. -/
theorem CallAt.of_host (h : CallAt c ms t) (hcfg : u.cfg = t.cfg) (hdrv : u.host.drv = t.host.drv) : CallAt c ms u where
  cfg := hcfg.trans h.cfg
  stack := by rw [hdrv, h.stack]
  status := by rw [hdrv, h.status]

theorem CallAt.driverStep_run {q : Proc} (h : CallAt c (.run q :: ms) t) : driverStep t = toOutcome (runProc q t.pop) := by
  rw [driverStep_top h.stack, microStep_run_ok h.status]

theorem CallAt.driverStep_onFail {q : Proc} (h : CallAt c (.onFail q :: ms) t) : driverStep t = .next t.pop := by
  rw [driverStep_top h.stack, microStep_onFail_ok h.status]

/-- A write of a call, performed at once. -/
theorem CallAt.driverStep_write (h : CallAt c (.op i :: ms) t) (hord : c.regOrder = .inOrder) (hok : accessFault c i = none)
    (hw : i.isWrite = true) (hroom : hasRoom i t = true) (heff : writeEffect i t.pop = .ok u) :
    driverStep t = .next (u.recordWrite i) ∧ CallAt c ms (u.recordWrite i) := by
  have hwithin := writeEffect_within heff
  have hcfg : t.pop.cfg = c := h.cfg
  constructor
  · rw [driverStep_top h.stack, microStep_op_ok h.status, if_pos (by rw [accepts_write hw, hroom]), issue_write _ hw, issueWrite,
      hcfg, hok, hord, heff]
    rfl
  · exact h.pop.of_host hwithin.cfg (congrArg HostAgent.drv hwithin.host)

/-- A read of a call, which returns `v`. -/
theorem CallAt.driverStep_read {v : RegVal} (h : CallAt c (.op i :: ms) t) (hord : c.regOrder = .inOrder)
    (hok : accessFault c i = none) (hr : i.isRead = true) (heff : readEffect i t.pop = .ok (v, u)) :
    driverStep t = .next ((u.setLast v).record (.access i v)) ∧ CallAt c ms ((u.setLast v).record (.access i v)) := by
  have hwithin := readEffect_within heff
  have hcfg : t.pop.cfg = c := h.cfg
  have hfence : ((u.setLast v).record (.access i v)).passFence = (u.setLast v).record (.access i v) :=
    State.passFence_inOrder _ (by rw [State.record_cfg, State.setLast_cfg, hwithin.cfg, hcfg, hord])
  have haccepts : accepts i t = true := accepts_read ⟨by rw [h.cfg, hok], by rw [h.cfg, hord]⟩ hr
  constructor
  · rw [driverStep_top h.stack, microStep_op_ok h.status, if_pos haccepts, issue_read _ hr, issueRead, hcfg, hok, heff]
    exact congrArg Host.Outcome.next hfence
  · exact h.pop.of_host hwithin.cfg (congrArg (fun a => HostAgent.drv { a with last := v, lastKnown := true }) hwithin.host)

/-! ## Several steps -/

theorem hostRun_succ (h : driverStep s = .next t) : hostRun (n + 1) s = hostRun n t := by
  simp only [hostRun, h]

theorem hostRun_add {m : Nat} (h : hostRun m s = some t) : hostRun (m + n) s = hostRun n t := by
  induction m generalizing s with
  | zero =>
    cases h
    rw [Nat.zero_add]
  | succ m ih =>
    rw [Nat.succ_add]
    rw [hostRun] at h ⊢
    cases hstep : driverStep s with
    | next r => rw [hstep] at h; exact ih h
    | fault e => rw [hstep] at h; cases h
    | refused r => rw [hstep] at h; cases h

/-! ## The frame of a transition (R346 to R348) -/

/-- The number of a bit list has its bits. -/
theorem bitsToNat_testBit (l : List Bool) (j : Nat) : (bitsToNat l).testBit j = l[j]?.getD false := by
  induction l generalizing j with
  | nil => simp [bitsToNat]
  | cons b l ih =>
    cases j with
    | zero => cases b <;> simp [bitsToNat, Nat.testBit_zero]
    | succ j =>
      have hhalf : (b.toNat + 2 * bitsToNat l) / 2 = bitsToNat l := by have := b.toNat_le; omega
      rw [bitsToNat, Nat.testBit_succ, hhalf, ih, List.getElem?_cons_succ]

/-- The bits of a frame's word are those of the list it was made of. -/
theorem frameBits (l : List Bool) (hl : l.length ≤ 16) :
    (List.range l.length).map (fun j => (BitVec.ofNat 16 (bitsToNat l)).getLsbD j) = l := by
  apply List.ext_getElem
  · rw [List.length_map, List.length_range]
  · intro j hj hjl
    rw [List.getElem_map, List.getElem_range, BitVec.getLsbD_ofNat, bitsToNat_testBit, List.getElem?_eq_getElem hjl]
    simp [show j < 16 by omega]

theorem tmsStream_length (e : TmsEntry) : (tmsStream e).length = e.num := by
  rw [tmsStream, List.length_map, List.length_range]

/-- A stream of 1 to 16 bits is one frame. -/
theorem sendOps_one {l d : List Bool} (hpos : 1 ≤ l.length) (hl : l.length ≤ 16) (hd : d.length = l.length) :
    sendOps l d false = [.op (.jtagShift l.length (BitVec.ofNat 16 (bitsToNat l)) (BitVec.ofNat 16 (bitsToNat d))),
      .op .jtagRstat, .run (.pollTest .jtagRstat 0 false true)] := by
  have hframes : (l.length + 15) / 16 = 1 := by omega
  rw [sendOps, hframes]
  simp [frameOps, pollOps, hl, List.take_of_length_le hl, List.take_of_length_le (hd.le.trans hl)]

/-- The default table has a transition of 1 to 16 bits between any two different tracked states (R346). -/
theorem modelTmsTable_find (src dst : JtagState) (hdst : dst ≠ .invalid) (hne : dst ≠ src) :
    ∃ e ∈ Config.modelTmsTable,
      Config.modelTmsTable.find? (fun e => decide (e.src = src) && decide (e.dst = dst)) = some e ∧
      e.src = src ∧ e.dst = dst ∧ 1 ≤ e.num ∧ e.num ≤ 16 := by
  have hsome : (Config.modelTmsTable.find? (fun e => decide (e.src = src) && decide (e.dst = dst))).isSome = true := by
    cases src <;> cases dst <;> trivial
  have hnum : ∀ e ∈ Config.modelTmsTable, e.num ≤ 16 ∧ (e.src ≠ e.dst → 1 ≤ e.num) := by decide
  obtain ⟨e, he⟩ := Option.isSome_iff_exists.1 hsome
  have hmem := List.mem_of_find?_eq_some he
  have htest := List.find?_some he
  simp only [Bool.and_eq_true, decide_eq_true_eq] at htest
  obtain ⟨hsrc, hdst⟩ := htest
  exact ⟨e, hmem, he, hsrc, hdst, (hnum e hmem).2 (by rw [hsrc, hdst]; exact hne.symm), (hnum e hmem).1⟩

/-- What `set_state` does for a transition of one frame (R347, R348). -/
def transitionOps (e : TmsEntry) : List Micro :=
  [.op (.jtagShift e.num (BitVec.ofNat 16 (bitsToNat (tmsStream e)))
      (BitVec.ofNat 16 (bitsToNat (List.replicate e.num false)))),
    .op .jtagRstat, .run (.pollTest .jtagRstat 0 false true), .run (.jtagTracked e.dst), .onFail .jtagForget]

/-- `set_state` at a state that the table leaves for the target (R347). -/
theorem runJtagSetState_sends {e : TmsEntry} (hinvalid : e.dst ≠ .invalid) (hne : e.dst ≠ s.host.jtagState)
    (hfind : s.cfg.jtagTmsTable.find? (fun x => decide (x.src = s.host.jtagState) && decide (x.dst = e.dst)) = some e)
    (hpos : 1 ≤ e.num) (hmax : e.num ≤ 16) : runJtagSetState e.dst s = .ok (s.push (transitionOps e)) := by
  have hlen := tmsStream_length e
  have hops := sendOps_one (l := tmsStream e) (d := List.replicate e.num false) (by omega) (by omega)
    (by rw [List.length_replicate, hlen])
  rw [hlen] at hops
  rw [runJtagSetState, if_neg hinvalid, if_neg hne, hfind]
  simp only [hops, List.cons_append, List.nil_append]
  rfl

/-- The first two steps of the call: the transition's frame is on its way (R347, R348). -/
theorem setState_sends {e : TmsEntry} (h : CallAt c (.run (.jtagSetState e.dst) :: ms) s)
    (hord : c.regOrder = .inOrder) (hreach : ∀ i : Instr, i.unit = .jtag → accessFault c i = none) (hidle : s.jtag.busy = false)
    (hinvalid : e.dst ≠ .invalid) (hne : e.dst ≠ s.host.jtagState)
    (hfind : s.cfg.jtagTmsTable.find? (fun x => decide (x.src = s.host.jtagState) && decide (x.dst = e.dst)) = some e)
    (hpos : 1 ≤ e.num) (hmax : e.num ≤ 16) :
    ∃ u, hostRun 2 s = some u ∧ CallAt c ((transitionOps e).tail ++ ms) u ∧ u.jtag.busy = true ∧ u.tap = s.tap ∧
      u.jtag.pending.count = e.num ∧ u.jtag.pending.tms = BitVec.ofNat 16 (bitsToNat (tmsStream e)) := by
  have hrun : runJtagSetState e.dst s.pop = .ok (s.pop.push (transitionOps e)) :=
    runJtagSetState_sends (s := s.pop) hinvalid hne hfind hpos hmax
  have hfirst : driverStep s = .next (s.pop.push (transitionOps e)) := by
    rw [h.driverStep_run, runProc, hrun, toOutcome_ok]
  have hidle' : (s.pop.push (transitionOps e)).pop.jtag.busy = false := hidle
  obtain ⟨hsecond, hcall⟩ := CallAt.driverStep_write (h.pop.push (ms' := transitionOps e)) hord (hreach _ rfl) rfl rfl
    (if_neg (by rw [hidle']; exact Bool.false_ne_true))
  exact ⟨_, by rw [hostRun_succ hfirst, hostRun_succ hsecond, hostRun], hcall, rfl, rfl, rfl, rfl⟩

theorem runPollTest_passes {bit : Nat} {pol bounded : Bool} (h : s.host.last.getLsbD bit = pol) :
    runProc (.pollTest i bit pol bounded) s = .ok s := by
  rw [runProc, runPollTest, if_pos h]

/-- A poll whose test passes leaves the rest of the call. -/
theorem CallAt.driverStep_poll {bit : Nat} {pol bounded : Bool} (h : CallAt c (.run (.pollTest i bit pol bounded) :: ms) t)
    (hbit : t.host.last.getLsbD bit = pol) : driverStep t = .next t.pop := by
  rw [h.driverStep_run, runPollTest_passes (s := t.pop) hbit, toOutcome_ok]

/-- The last four steps of the call: the status read finds the unit idle, and the target is tracked (R347, R348). -/
theorem setState_tracks {e : TmsEntry} (h : CallAt c ((transitionOps e).tail ++ ms) s) (hord : c.regOrder = .inOrder)
    (hreach : ∀ i : Instr, i.unit = .jtag → accessFault c i = none) (hidle : s.jtag.busy = false) :
    ∃ t, hostRun 4 s = some t ∧ CallAt c ms t ∧ t.host.jtagState = e.dst ∧ t.tap = s.tap ∧ t.jtag.busy = false := by
  have heff : readEffect .jtagRstat s.pop = .ok (bitAt s.jtag.busy 0, s.pop) := rfl
  obtain ⟨t1, h1, hcall1, hlast1, htap1, hidle1⟩ : ∃ t1, driverStep s = .next t1 ∧
      CallAt c ((transitionOps e).tail.tail ++ ms) t1 ∧ t1.host.last = bitAt s.jtag.busy 0 ∧ t1.tap = s.tap ∧
      t1.jtag.busy = false := by
    obtain ⟨hstep, hcall⟩ := CallAt.driverStep_read (i := .jtagRstat) h hord (hreach _ rfl) rfl heff
    exact ⟨_, hstep, hcall, rfl, rfl, hidle⟩
  have h2 : driverStep t1 = .next t1.pop :=
    CallAt.driverStep_poll hcall1 (by rw [hlast1, hidle, bitAt_getLsbD _ _ (by omega), Bool.and_false])
  have h3 : driverStep t1.pop = .next (t1.pop.pop.setTracked e.dst) := CallAt.driverStep_run hcall1.pop
  have hcall3 : CallAt c (.onFail .jtagForget :: ms) (t1.pop.pop.setTracked e.dst) := hcall1.pop.pop.of_host rfl rfl
  refine ⟨_, by rw [hostRun_succ h1, hostRun_succ h2, hostRun_succ h3, hostRun_succ hcall3.driverStep_onFail, hostRun],
    hcall3.pop, rfl, ?_, ?_⟩
  · rw [State.pop_tap, State.setTracked_tap, State.pop_tap, State.pop_tap, htap1]
  · rw [State.pop_jtag, State.setTracked_jtag, State.pop_jtag, State.pop_jtag, hidle1]

/-- Settles O59: the call sends the table's transition as one frame, and the frame takes the TAP along it. -/
theorem setStateReachesTarget : Obligations.SetStateReachesTarget := by
  unfold Obligations.SetStateReachesTarget
  intro target rest s hstack hok hinvalid hne htable hord hreach hidle hcovers
  obtain ⟨e, hmem, hfind, hsrc, rfl, hpos, hmax⟩ := modelTmsTable_find s.host.jtagState target hinvalid hne
  rw [← htable] at hfind
  obtain ⟨u, hrun, hcall, hbusy, htap, hcount, htms⟩ :=
    setState_sends ⟨rfl, hstack, hok⟩ hord hreach hidle hinvalid hne hfind hpos hmax
  obtain ⟨-, a, out, hframe, -, -⟩ := jtagFrameCompletes u hbusy (hcount.le.trans hmax)
  have hdone := Host.Outcome.next.inj hframe
  have hlen := tmsStream_length e
  have hbits : (List.range u.jtag.pending.count).map (fun j => u.jtag.pending.tms.getLsbD j) = tmsStream e := by
    rw [hcount, htms, ← hlen]
    exact frameBits _ (hlen.le.trans hmax)
  have hafter : (jtagStep u).tap = tapRun s.tap (tmsStream e) := by rw [hdone, ← hbits, htap]
  obtain ⟨t, hrun', hcall', htracked, htap', hidle'⟩ :=
    setState_tracks (hcall.of_host (u := jtagStep u) (by rw [hdone]) (by rw [hdone])) hord hreach (by rw [hdone])
  refine ⟨u, t, hrun, hbusy, hrun', htracked, ?_, hidle', hcall'.stack, hcall'.status⟩
  rw [htap', hafter]
  exact tapTables.2 e hmem s.tap (by rw [hsrc]; exact hcovers)

end Sys2Proof.Machine
end

section
/-! The activation of an I2C bank (42_i2c.md R180 to R182), as fourteen steps of a driver call: disable, program, enable. -/

namespace Sys2Proof.Machine

variable {s t u : State} {ms : List Micro} {es : List Event} {act : Option Nat} {core : I2cUnit} {i : Instr} {b : Nat}

/-! ## The effects of the writes: no access recorded, and what they do to the core -/

theorem accesses_append (l l' : List Event) : accesses (l ++ l') = accesses l ++ accesses l' := List.filter_append ..

theorem accesses_answered (s : State) (q : Oracle) : accesses (s.answered q).history = accesses s.history := by
  rw [State.answered_history, accesses_append]
  exact List.append_nil _

theorem accesses_redrawBusy (b : Nat) (s : State) : accesses (redrawBusy b s).history = accesses s.history :=
  accesses_answered s _

theorem accesses_redrawBanks (n b : Nat) (s : State) : accesses (redrawBanks n b s).history = accesses s.history := by
  induction n generalizing b s with
  | zero => rfl
  | succ n ih => rw [redrawBanks, ih, accesses_redrawBusy]

/-- Disabling the core, in a transfer or not (R168): no access. -/
theorem writeEffect_i2cWctrl_off (b : Nat) (s : State) :
    ∃ u, writeEffect (.i2cWctrl b false) s = .ok u ∧ accesses u.history = accesses s.history ∧ u.i2c.en = false ∧
      u.i2c.enKnown = true := by
  cases htip : s.i2c.tip with
  | false => exact ⟨_, writeEffect_i2cWctrl_disable htip, rfl, rfl, rfl⟩
  | true =>
    refine ⟨abandonTransfer (s.setEnable false), by simp [writeEffect, performI2cWctrl, htip], ?_⟩
    unfold abandonTransfer
    split
    · exact ⟨accesses_redrawBusy _ _, rfl, rfl⟩
    · exact ⟨rfl, rfl, rfl⟩

/-- Enabling the core that was disabled (R168): the buses are drawn again, and nothing else changes. -/
theorem writeEffect_i2cWctrl_on (b : Nat) (hoff : s.i2c.en = false) :
    ∃ u busy, writeEffect (.i2cWctrl b true) s = .ok u ∧ accesses u.history = accesses s.history ∧
      u.i2c = { s.i2c with en := true, enKnown := true, busy := busy } := by
  obtain ⟨a, hdrawn, -⟩ := redrawBanks_spec s.cfg.i2cNumBanks 0 (s.setEnable true)
  exact ⟨redrawBanks s.cfg.i2cNumBanks 0 (s.setEnable true), (redrawBanks s.cfg.i2cNumBanks 0 (s.setEnable true)).i2c.busy,
    writeEffect_i2cWctrl_enable (by simp [hoff]), accesses_redrawBanks _ _ _, congrArg State.i2c hdrawn⟩

theorem writeEffect_i2cWpreLo {v : Byte} (hoff : s.i2c.en = false) :
    writeEffect (.i2cWpreLo b v) s = .ok { s with i2c := { s.i2c with preLo := v, preLoKnown := true } } := by
  simp [writeEffect, performI2cWpreLo, I2cUnit.enabled, hoff]

theorem writeEffect_i2cWpreHi {v : Byte} (hoff : s.i2c.en = false) :
    writeEffect (.i2cWpreHi b v) s = .ok { s with i2c := { s.i2c with preHi := v, preHiKnown := true } } := by
  simp [writeEffect, performI2cWpreHi, I2cUnit.enabled, hoff]

/-! ## Steps of the activation -/

/-- The call in the middle of an activation that began in `s`: what is left to do, the accesses made, the active bus, the core. -/
structure ActivationAt (s : State) (ms : List Micro) (es : List Event) (act : Option Nat) (core : I2cUnit) (t : State) : Prop
    extends CallAt s.cfg ms t where
  accesses : accesses t.history = accesses s.history ++ es
  active : t.host.activeBus = act
  i2c : t.i2c = core

/-- Every access of the bank is direct: accesses are in order, and reach their register. -/
structure BankReached (b : Nat) (c : Config) : Prop where
  inOrder : c.regOrder = .inOrder
  reached : ∀ i : Instr, i.bank? = some b → accessFault c i = none

theorem ActivationAt.write (h : ActivationAt s (.op i :: ms) es act core t) (hb : BankReached b s.cfg) (hi : i.bank? = some b)
    (hw : i.isWrite = true) (hroom : hasRoom i t = true) (heff : writeEffect i t.pop = .ok u)
    (hacc : Machine.accesses u.history = Machine.accesses t.history) :
    ∃ t', driverStep t = .next t' ∧ ActivationAt s ms (es ++ [.access i (BitVec.ofNat 32 i.value)]) act u.i2c t' := by
  obtain ⟨hstep, hcall⟩ := h.toCallAt.driverStep_write hb.inOrder (hb.reached i hi) hw hroom heff
  have hhost : u.host = t.pop.host := (writeEffect_within heff).host
  refine ⟨_, hstep, hcall, ?_, ?_, rfl⟩
  · rw [State.recordWrite_history, accesses_append, hacc, h.accesses, List.append_assoc]
    rfl
  · rw [State.recordWrite_host, hhost]
    exact h.active

/-- The two prescaler writes, which a disabled core admits (R164, R165). -/
theorem ActivationAt.writePreLo {v : Byte} (h : ActivationAt s (.op (.i2cWpreLo b v) :: ms) es act core t)
    (hb : BankReached b s.cfg) (hoff : core.en = false) :
    ∃ t', driverStep t = .next t' ∧ ActivationAt s ms (es ++ [.access (.i2cWpreLo b v) (v.setWidth 32)]) act
      { core with preLo := v, preLoKnown := true } t' := by
  have hvalue : BitVec.ofNat 32 (Instr.i2cWpreLo b v).value = v.setWidth 32 := BitVec.ofNat_toNat ..
  have hoff' : t.pop.i2c.en = false := by rw [State.pop_i2c, h.i2c, hoff]
  obtain ⟨t', step, h'⟩ := h.write hb rfl rfl rfl (writeEffect_i2cWpreLo hoff') rfl
  rw [hvalue, State.pop_i2c, h.i2c] at h'
  exact ⟨t', step, h'⟩

theorem ActivationAt.writePreHi {v : Byte} (h : ActivationAt s (.op (.i2cWpreHi b v) :: ms) es act core t)
    (hb : BankReached b s.cfg) (hoff : core.en = false) :
    ∃ t', driverStep t = .next t' ∧ ActivationAt s ms (es ++ [.access (.i2cWpreHi b v) (v.setWidth 32)]) act
      { core with preHi := v, preHiKnown := true } t' := by
  have hvalue : BitVec.ofNat 32 (Instr.i2cWpreHi b v).value = v.setWidth 32 := BitVec.ofNat_toNat ..
  have hoff' : t.pop.i2c.en = false := by rw [State.pop_i2c, h.i2c, hoff]
  obtain ⟨t', step, h'⟩ := h.write hb rfl rfl rfl (writeEffect_i2cWpreHi hoff') rfl
  rw [hvalue, State.pop_i2c, h.i2c] at h'
  exact ⟨t', step, h'⟩

/-- A read of the activation. -/
theorem ActivationAt.read {v : RegVal} (h : ActivationAt s (.op i :: ms) es act core t) (hb : BankReached b s.cfg)
    (hi : i.bank? = some b) (hr : i.isRead = true) (heff : readEffect i t.pop = .ok (v, t.pop)) :
    ∃ t', driverStep t = .next t' ∧ ActivationAt s ms (es ++ [.access i v]) act core t' ∧ t'.host.last = v := by
  obtain ⟨hstep, hcall⟩ := h.toCallAt.driverStep_read hb.inOrder (hb.reached i hi) hr heff
  refine ⟨_, hstep, ⟨hcall, ?_, h.active, h.i2c⟩, rfl⟩
  rw [State.record_history, accesses_append, ← List.append_assoc, ← h.accesses]
  rfl

/-- A point of the activation that puts more to do on the stack. -/
theorem ActivationAt.push {q : Proc} {ms' : List Micro} (h : ActivationAt s (.run q :: ms) es act core t)
    (hrun : runProc q t.pop = .ok (t.pop.push ms')) :
    ∃ t', driverStep t = .next t' ∧ ActivationAt s (ms' ++ ms) es act core t' :=
  ⟨_, by rw [h.toCallAt.driverStep_run, hrun, toOutcome_ok], h.toCallAt.pop.push, h.accesses, h.active, h.i2c⟩

/-- A point of the activation that passes. -/
theorem ActivationAt.pass {q : Proc} (h : ActivationAt s (.run q :: ms) es act core t) (hrun : runProc q t.pop = .ok t.pop) :
    ∃ t', driverStep t = .next t' ∧ ActivationAt s ms es act core t' :=
  ⟨_, by rw [h.toCallAt.driverStep_run, hrun, toOutcome_ok], h.toCallAt.pop, h.accesses, h.active, h.i2c⟩

/-- The point that makes the bank the active one (R181). -/
theorem ActivationAt.select (h : ActivationAt s (.run (.i2cSelect b) :: ms) es act core t) :
    ∃ t', driverStep t = .next t' ∧ ActivationAt s ms es (some b) core t' :=
  ⟨_, h.toCallAt.driverStep_run, h.toCallAt.pop.of_host rfl rfl, h.accesses, rfl, h.i2c⟩

/-! ## Its three parts -/

/-- The activation starts: the core is disabled, and the bank is the active one (R181). -/
theorem activation_disables {rest : List Micro} (hstack : s.host.drv.stack = .run (.i2cActivate b) :: rest)
    (hok : s.host.drv.status = .ok) (hb : BankReached b s.cfg) (hnot : s.host.activeBus ≠ some b) :
    ∃ t core, hostRun 3 s = some t ∧ core.en = false ∧
      ActivationAt s (.run (.i2cProgram b) :: .run (.i2cEnable b) :: .onFail .i2cForget :: rest)
        [.access (.i2cWctrl b false) 0#32] (some b) core t := by
  have hbank : b < s.cfg.i2cNumBanks := (accessFault_none (hb.reached (.i2cRstat b) rfl)).1 b rfl
  have h0 : ActivationAt s (.run (.i2cActivate b) :: rest) [] s.host.activeBus s.i2c s :=
    ⟨⟨rfl, hstack, hok⟩, (List.append_nil _).symm, rfl, rfl⟩
  have hrun : runProc (.i2cActivate b) s.pop = .ok (s.pop.push [.op (.i2cWctrl b false), .run (.i2cSelect b),
      .run (.i2cProgram b), .run (.i2cEnable b), .onFail .i2cForget]) := by
    have hbank' : ¬s.pop.cfg.i2cNumBanks ≤ b := Nat.not_le.2 hbank
    have hnot' : ¬s.pop.host.activeBus = some b := hnot
    rw [runProc, runI2cActivate, if_neg hbank', if_neg hnot']
  obtain ⟨t1, step1, h1⟩ := h0.push hrun
  obtain ⟨u, heff, hacc, hoff, -⟩ := writeEffect_i2cWctrl_off b t1.pop
  obtain ⟨t2, step2, h2⟩ := ActivationAt.write h1 hb rfl rfl rfl heff hacc
  obtain ⟨t3, step3, h3⟩ := h2.select
  exact ⟨t3, u.i2c, by rw [hostRun_succ step1, hostRun_succ step2, hostRun_succ step3, hostRun], hoff, h3⟩

/-- The prescaler is written and read back (R180). -/
theorem activation_programs {p : Nat} {lo hi : Byte} (h : ActivationAt s (.run (.i2cProgram b) :: ms) es act core t)
    (hb : BankReached b s.cfg) (hoff : core.en = false) (hp : bus2core (bankFrequency s.cfg b) s.cfg.i2cFwClock = some p)
    (hlo : lo = (BitVec.ofNat 16 p).extractLsb' 0 8) (hhi : hi = (BitVec.ofNat 16 p).extractLsb' 8 8) :
    ∃ t', hostRun 7 t = some t' ∧
      ActivationAt s ms
        (es ++ [.access (.i2cWpreLo b lo) (lo.setWidth 32), .access (.i2cWpreHi b hi) (hi.setWidth 32),
          .access (.i2cRpreLo b) (lo.setWidth 32), .access (.i2cRpreHi b) (hi.setWidth 32)]) act
        { core with preLo := lo, preLoKnown := true, preHi := hi, preHiKnown := true } t' := by
  have hback : ∀ x : Byte, (x.setWidth 32).setWidth 8 = x := fun x => by
    rw [BitVec.setWidth_setWidth_of_le _ (by omega), BitVec.setWidth_eq]
  obtain ⟨t1, step1, h1⟩ := h.push (ms' := [.op (.i2cWpreLo b lo), .op (.i2cWpreHi b hi), .op (.i2cRpreLo b),
      .run (.i2cReadHi b (BitVec.ofNat 16 p))]) (by
    have hp' : bus2core (bankFrequency t.pop.cfg b) t.pop.cfg.i2cFwClock = some p := by
      rw [h.toCallAt.pop.cfg]
      exact hp
    simp only [runProc, runI2cProgram, hp', hlo, hhi])
  obtain ⟨t2, step2, h2⟩ := ActivationAt.writePreLo h1 hb hoff
  obtain ⟨t3, step3, h3⟩ := ActivationAt.writePreHi h2 hb hoff
  obtain ⟨t4, step4, h4, hlast4⟩ := ActivationAt.read (v := lo.setWidth 32) h3 hb rfl rfl (by
    have hi2c := h3.i2c
    simp [readEffect, readI2cPreLo, hi2c])
  obtain ⟨t5, step5, h5⟩ := h4.push (ms' := [.op (.i2cRpreHi b), .run (.i2cVerify lo (BitVec.ofNat 16 p))]) (by
    have hlast : t4.pop.host.last = lo.setWidth 32 := hlast4
    rw [runProc, runI2cReadHi, hlast, hback])
  obtain ⟨t6, step6, h6, hlast6⟩ := ActivationAt.read (v := hi.setWidth 32) h5 hb rfl rfl (by
    have hi2c := h5.i2c
    simp [readEffect, readI2cPreHi, hi2c])
  obtain ⟨t7, step7, h7⟩ := ActivationAt.pass h6 (by
    have hlast : t6.pop.host.last = hi.setWidth 32 := hlast6
    rw [runProc, runI2cVerify, hlast, hback, if_neg (by simp [hlo, hhi])])
  refine ⟨t7, ?_, ?_⟩
  · rw [hostRun_succ step1, hostRun_succ step2, hostRun_succ step3, hostRun_succ step4, hostRun_succ step5,
      hostRun_succ step6, hostRun_succ step7, hostRun]
  · simpa using h7

/-- The core is enabled, and a bus found held is stopped next (R182). -/
theorem activation_enables (h : ActivationAt s (.run (.i2cEnable b) :: ms) es act core t) (hb : BankReached b s.cfg)
    (hoff : core.en = false) :
    ∃ t' core', hostRun 4 t = some t' ∧ (∃ busy, core' = { core with en := true, enKnown := true, busy := busy }) ∧
      ActivationAt s ((if core'.busyAt b then stopAndWait b else []) ++ ms)
        (es ++ [.access (.i2cWctrl b true) 1#32, .access (.i2cRstat b) (i2cStatus core' b)]) act core' t' := by
  obtain ⟨t1, step1, h1⟩ := h.push (ms' := [.op (.i2cWctrl b true), .op (.i2cRstat b), .run (.i2cEnableTest b)]) rfl
  obtain ⟨u, busy, heff, hacc, hcore⟩ := writeEffect_i2cWctrl_on (s := t1.pop) b (by rw [State.pop_i2c, h1.i2c, hoff])
  rw [State.pop_i2c, h1.i2c] at hcore
  obtain ⟨t2, step2, h2⟩ := ActivationAt.write h1 hb rfl rfl rfl heff hacc
  obtain ⟨t3, step3, h3, hlast⟩ := ActivationAt.read (v := i2cStatus u.i2c b) h2 hb rfl rfl (by
    have hi2c := h2.i2c
    simp [readEffect, readI2cStat, hi2c])
  have hbit : t3.pop.host.last.getLsbD 1 = u.i2c.busyAt b := by
    rw [← (i2cStatus_fields u.i2c b).2.1, ← hlast]
    rfl
  obtain ⟨t4, step4, h4⟩ : ∃ t4, driverStep t3 = .next t4 ∧
      ActivationAt s ((if u.i2c.busyAt b then stopAndWait b else []) ++ ms) _ act u.i2c t4 := by
    cases hbusy : u.i2c.busyAt b with
    | false => exact h3.pass (by rw [runProc, runI2cEnableTest, hbit, hbusy]; rfl)
    | true => exact h3.push (by rw [runProc, runI2cEnableTest, hbit, hbusy]; rfl)
  refine ⟨t4, u.i2c, ?_, ⟨busy, hcore⟩, ?_⟩
  · rw [hostRun_succ step1, hostRun_succ step2, hostRun_succ step3, hostRun_succ step4, hostRun]
  · rw [List.append_assoc] at h4
    exact h4

/-- The two bytes of a prescaler hold it. -/
theorem prescaler_bytes {p : Nat} (hp : p < 2 ^ 16) :
    ((BitVec.ofNat 16 p).extractLsb' 0 8).toNat + 256 * ((BitVec.ofNat 16 p).extractLsb' 8 8).toNat = p := by
  simp only [BitVec.extractLsb'_toNat, BitVec.toNat_ofNat, Nat.shiftRight_eq_div_pow]
  omega

theorem bus2core_lt {f clk p : Nat} (h : bus2core f clk = some p) : p < 2 ^ 16 := by
  unfold bus2core at h
  split_ifs at h with hzero hlow hhigh
  cases h
  exact hhigh

/-- Settles O57: the disabling, programming and enabling parts, one after the other. -/
theorem activationProgramsBank : Obligations.ActivationProgramsBank := by
  unfold Obligations.ActivationProgramsBank
  intro b p rest s hstack hok hord hreach hnot hp
  have hb : BankReached b s.cfg := ⟨hord, hreach⟩
  obtain ⟨t1, core, run1, hoff, h1⟩ := activation_disables hstack hok hb hnot
  obtain ⟨t2, run2, h2⟩ := activation_programs h1 hb hoff hp rfl rfl
  obtain ⟨t, core', run3, ⟨busy, hcore⟩, h⟩ := activation_enables h2 hb hoff
  have hlo : t.i2c.preLo = (BitVec.ofNat 16 p).extractLsb' 0 8 := by rw [h.i2c, hcore]
  have hhi : t.i2c.preHi = (BitVec.ofNat 16 p).extractLsb' 8 8 := by rw [h.i2c, hcore]
  have hrun : hostRun 14 s = some t := by
    rw [hostRun_add (m := 3) (n := 11) run1, hostRun_add (m := 7) (n := 4) run2, run3]
  refine ⟨t, hrun, h.active, h.status, ?_, ?_, ?_, ?_, ?_, ?_, ?_⟩
  · rw [h.i2c, hcore]
  · rw [h.i2c, hcore]
  · rw [h.i2c, hcore]
  · rw [h.i2c, hcore]
  · rw [hlo, hhi]
    exact prescaler_bytes (bus2core_lt hp)
  · rw [h.accesses, hlo, hhi, h.i2c]
    rfl
  · rw [h.stack, h.i2c]
    simp only [I2cUnit.busyAt_iff]
    rfl

end Sys2Proof.Machine
end
